-- ==== Sys2Proof/Word.lean ====
section
/-! DEFINITION. The two word sizes of the block (00_scope.md R8): the byte and the 16-bit word. -/

namespace Sys2Proof

/-- A byte, `u8` of R8. -/
abbrev Byte := BitVec 8

/-- A 16-bit word, `u16` of R8: a length field, a CRC. -/
abbrev Word16 := BitVec 16

end Sys2Proof
end

