-- ==== Sys2Proof/Syntax.lean ====
section
/-! DEFINITION. The instructions: one constructor per row of spec/opcode_table.json (30_encoding.md R60, R66, R69, R70). -/

namespace Sys2Proof

/-- One constructor per row of the table: the five host commands with the operands of R70, the eight drain actions
of the RX agent (R121 to R128), the seven rows of the frame's type field (R66) and the wire frame (R60). -/
inductive Instr where
  /-- RESET (R132): no operands. -/
  | reset
  /-- FEED (R130): the chunk delivered. -/
  | feed (chunk : List Byte)
  /-- ENCODE (R90): R70 gives type and seq as integers, checked against 0..255 at the command port. -/
  | encode (type seq : Int) (payload : List Byte)
  /-- TRY_DECODE (R100). -/
  | tryDecode (bytes : List Byte)
  /-- CRC16 (R84). -/
  | crc16 (data : List Byte)
  /-- S1_WAIT_SHORT (R121). -/
  | s1WaitShort
  /-- S1_PROCEED (R122). -/
  | s1Proceed
  /-- S2_DISCARD_ALL (R123). -/
  | s2DiscardAll
  /-- S2_AT_SYNC (R124). -/
  | s2AtSync
  /-- S2_DISCARD_PREFIX (R125). -/
  | s2DiscardPrefix
  /-- S3_WAIT_INCOMPLETE (R126). -/
  | s3WaitIncomplete
  /-- S3_DROP_FALSE_SYNC (R127). -/
  | s3DropFalseSync
  /-- S3_EMIT (R128). -/
  | s3Emit
  /-- TYPE_COMMAND, the type field 0x01 (R66). -/
  | typeCommand
  /-- TYPE_RESPONSE, the type field 0x02 (R66). -/
  | typeResponse
  /-- TYPE_EVENT, the type field 0x03 (R66). -/
  | typeEvent
  /-- TYPE_ACK, the type field 0x04 (R66). -/
  | typeAck
  /-- TYPE_NAK, the type field 0x05 (R66). -/
  | typeNak
  /-- TYPE_DATA, the type field 0x10 (R66). -/
  | typeData
  /-- TYPE_OPAQUE, a type field of any other value (R66). -/
  | typeOpaque (value : Byte)
  /-- FRAME (R60): the sync, length and CRC fields are fixed by these three (R71). -/
  | frame (type seq : Byte) (payload : List Byte)
  deriving DecidableEq, Repr

/-- Whether the row is a host command of R69 (selectors 0x00 to 0x04): the only rows the host may issue. -/
def Instr.isHostCommand : Instr → Bool
  | .reset => true
  | .feed _ => true
  | .encode _ _ _ => true
  | .tryDecode _ => true
  | .crc16 _ => true
  | .s1WaitShort => false
  | .s1Proceed => false
  | .s2DiscardAll => false
  | .s2AtSync => false
  | .s2DiscardPrefix => false
  | .s3WaitIncomplete => false
  | .s3DropFalseSync => false
  | .s3Emit => false
  | .typeCommand => false
  | .typeResponse => false
  | .typeEvent => false
  | .typeAck => false
  | .typeNak => false
  | .typeData => false
  | .typeOpaque _ => false
  | .frame _ _ _ => false

end Sys2Proof
end

