-- ==== Sys2Proof/Machine/State.lean ====
section
/-! DEFINITION. The machine's state, all of it plain data (10_state.md R20 to R34), and the state after reset. -/

namespace Sys2Proof.Machine

/-- A Message record (R22). `payload` holds at most 65535 bytes: Safety.payloadsFit states it of every record. -/
structure Message where
  type : Byte
  seq : Byte
  payload : List Byte
  deriving DecidableEq, Repr

/-- Why a candidate frame is invalid (R31). -/
inductive InvalidReason where
  | badSync
  | badCrc
  deriving DecidableEq, Repr

/-- An Outcome of `try_decode` (R31). -/
inductive DecodeOutcome where
  /-- The message and the consumed count `n`, 7 to 65542 (R105). -/
  | decoded (m : Message) (n : Nat)
  | incomplete
  | invalid (r : InvalidReason)
  deriving DecidableEq, Repr

/-- The one error a command returns (R151). -/
inductive ErrorCode where
  | payloadTooLarge
  deriving DecidableEq, Repr

/-- A value returned on the result port (R27). -/
inductive Result where
  /-- `OK` of FEED and RESET. -/
  | ok
  /-- `Frame(bytes)` of ENCODE. -/
  | frame (bytes : List Byte)
  /-- `Error(PAYLOAD_TOO_LARGE)` of ENCODE. -/
  | error (e : ErrorCode)
  /-- The Outcome of TRY_DECODE. -/
  | outcome (o : DecodeOutcome)
  /-- The `u16` of CRC16. -/
  | crc (value : Word16)
  deriving DecidableEq, Repr

/-- The RX control state `at` (R21). -/
inductive Ctrl where
  | s1
  | s2
  | s3
  | q
  deriving DecidableEq, Repr

/-- The reason of a diagnostic record (R24). -/
inductive DiagReason where
  | frameInvalidBadCrc
  deriving DecidableEq, Repr

/-- A record of `msg_log` (R23) with its place in the common order of emitted events (R32). -/
structure MsgRecord where
  pos : Nat
  msg : Message
  deriving DecidableEq, Repr

/-- A record of `diag_log` (R24) with its place in the common order of emitted events (R32). -/
structure DiagRecord where
  pos : Nat
  reason : DiagReason
  deriving DecidableEq, Repr

/-- All the state of the block. The CRC register (R25) is no field: it exists only inside one computation (log entry
12). -/
structure State where
  /-- `buf`, the RX buffer, oldest byte first (R20). -/
  buf : List Byte
  /-- `at`, the RX control state (R21). -/
  ctrl : Ctrl
  /-- `msg_log`, oldest record first (R23). -/
  msgLog : List MsgRecord
  /-- `diag_log`, oldest record first (R24). -/
  diagLog : List DiagRecord
  /-- What the result port has returned, oldest first (R27, R182; log entry 3). -/
  results : List Result
  /-- The host's commands not yet issued, in the binary form of R72 (R28; log entry 4). -/
  script : List Byte
  deriving DecidableEq, Repr

/-- The two cases in which the spec asks a model to fault. No state reaches either (Laws/Drain.lean, Laws/FrameDecoder.lean). -/
inductive Fault where
  /-- A read at or past the end of a byte sequence (R9, R45). Raised by byteAt. Safe: the rules guard every read. -/
  | readPastEnd
  /-- A drain that does not reach Q (93_implementation_defined.md section 2). Raised by drain when the bound of R129
  is used up. Safe: the drain ends within the bound. -/
  | drainDoesNotEnd
  deriving DecidableEq, Repr

/-- Why a command has no effect and no result (R70, R155: "a model marks the run refused"). -/
inductive Refusal where
  /-- An instruction that has no meaning yet: exec's arm alone. Safe. -/
  | notModelled (mnemonic : String)
  /-- A selector no command has, 0x05 to 0x7F or 0x88 to 0xFF (R69). Raised by fetch. Safe: the spec refuses it. -/
  | unassignedSelector
  /-- A drain action's selector issued by the host (R69). Raised by fetch. Safe: the spec refuses it. -/
  | internalSelector
  /-- A script that ends inside a command's operands: an operand of the wrong kind (R70, 93 section 2). Raised by
  fetch. Safe: the spec refuses it. -/
  | malformedOperands
  /-- An ENCODE whose type or seq is outside 0..255 (R70). Raised by execEncode. Safe: the spec refuses it. -/
  | operandOutOfRange
  /-- A FEED of more than CHUNK_MAX bytes (R70). Raised by execFeed. Safe: the spec refuses it. -/
  | chunkTooLong
  /-- FEED or RESET, or the reception of a wire item, while `at` is not Q (R130, R132). Raised by execFeed and
  execReset. Safe: the spec refuses it. -/
  | notQuiescent
  /-- A drain action whose guard does not hold (R120: only the enabled action is taken). Raised by the meanings of
  the drain actions. Safe: no run takes one. -/
  | actionNotEnabled
  /-- A FRAME with more than 65535 payload bytes, which no frame of R60 has. Raised by execFrame. Safe. -/
  | noSuchFrame
  deriving DecidableEq, Repr

/-- Power-on (R34, R170): an empty buffer, quiescent, empty logs. No result returned and no command pending (log entry
5). -/
def State.reset : State where
  buf := []
  ctrl := .q
  msgLog := []
  diagLog := []
  results := []
  script := []

end Sys2Proof.Machine
end

