-- ==== Sys2Proof/Machine/Ops.lean ====
section
/-! DEFINITION. The named operations over the state (00_scope.md R10, 20_memory.md R45 and R46). The block has no
addressed memory, no registers and no trap entry (R29, R40, R157), so these are all the operations there are. -/

namespace Sys2Proof.Machine

/-- `s[i]` of R9, and BufRead of R45 on `buf`: a read at or past the end faults. -/
def byteAt (b : List Byte) (i : Nat) : Except Fault Byte :=
  match b[i]? with
  | some x => .ok x
  | none => .error .readPastEnd

/-- `BufAppend(s)` (R46). -/
def State.bufAppend (s : State) (bytes : List Byte) : State :=
  { s with buf := s.buf ++ bytes }

/-- `BufDrop(k)` (R46). -/
def State.bufDrop (s : State) (k : Nat) : State :=
  { s with buf := s.buf.drop k }

/-- `BufClear()` (R46). -/
def State.bufClear (s : State) : State :=
  { s with buf := [] }

/-- `at <- c` (R10). -/
def State.setCtrl (s : State) (c : Ctrl) : State :=
  { s with ctrl := c }

/-- The place of the next emitted event in the order common to both logs (R32): how many were emitted before it. -/
def State.nextPos (s : State) : Nat :=
  s.msgLog.length + s.diagLog.length

/-- `emit Msg(t, s, p)` (R10, R23). -/
def State.emitMsg (s : State) (m : Message) : State :=
  { s with msgLog := s.msgLog ++ [{ pos := s.nextPos, msg := m }] }

/-- `emit Diag(reason)` (R10, R24). -/
def State.emitDiag (s : State) (r : DiagReason) : State :=
  { s with diagLog := s.diagLog ++ [{ pos := s.nextPos, reason := r }] }

/-- `return v` (R10, R27), and `raise PayloadTooLarge` (R151): one value on the result port, nothing else. -/
def State.respond (s : State) (r : Result) : State :=
  { s with results := s.results ++ [r] }

/-- The TX output stream of R41: the bytes ENCODE has returned, in order. -/
def State.txOutput (s : State) : List Byte :=
  s.results.flatMap fun
    | .frame bytes => bytes
    | .ok => []
    | .error _ => []
    | .outcome _ => []
    | .crc _ => []

end Sys2Proof.Machine
end

