-- ==== Sys2Proof/Machine/Params.lean ====
section
/-! DEFINITION. The constants of the protocol, fixed by the source (00_scope.md R6, 30_encoding.md R66). -/

namespace Sys2Proof.Params

/-- SYNC (R6, R61). -/
def sync : Byte := 0xAA

/-- MIN_FRAME (R6): sync, length, type, sequence and CRC of a frame with an empty payload. -/
def minFrame : Nat := 7

/-- MAX_PAYLOAD (R6). -/
def maxPayload : Nat := 65535

/-- CRC polynomial (R6, R80), without its x^16 term. -/
def crcPoly : Word16 := 0x1021

/-- CRC initial register (R6, R81). -/
def crcInit : Word16 := 0xFFFF

/-- Command (R66). -/
def typeCommand : Byte := 0x01

/-- Response (R66). -/
def typeResponse : Byte := 0x02

/-- Event (R66). -/
def typeEvent : Byte := 0x03

/-- Ack (R66). -/
def typeAck : Byte := 0x04

/-- Nak (R66). -/
def typeNak : Byte := 0x05

/-- Data (R66). -/
def typeData : Byte := 0x10

/-- The six named type codes of R66; every other value is opaque. -/
def namedTypes : List Byte := [typeCommand, typeResponse, typeEvent, typeAck, typeNak, typeData]

end Sys2Proof.Params
end

