-- ==== Sys2Proof/Machine/Crc.lean ====
section
/-! DEFINITION. The CRC-16 generator (40_crc.md) and the command CRC16. -/

namespace Sys2Proof.Machine

/-- One of the eight iterations of R82: shift left, and exclusive-or the polynomial in when bit 15 was set. -/
def crcShift (c : Word16) : Word16 :=
  if c.getLsbD 15 then (c <<< 1) ^^^ Params.crcPoly else c <<< 1

/-- `repeat k times` of R82. -/
def crcShifts : Nat → Word16 → Word16
  | 0, c => c
  | k + 1, c => crcShifts k (crcShift c)

/-- `crc_update(c, b)` (R82): one input byte into the CRC register. -/
def crcUpdate (c : Word16) (b : Byte) : Word16 :=
  crcShifts 8 (c ^^^ (b.zeroExtend 16 <<< 8))

/-- `crc_final(c)` (R81): no exclusive-or, no reflection. -/
def crcFinal (c : Word16) : Word16 := c

/-- `crc16(data)` (R84): the register starts at 0xFFFF and takes the bytes in stream order (R43). -/
def crc16 (data : List Byte) : Word16 :=
  crcFinal (data.foldl crcUpdate Params.crcInit)

/-- `crc_update_bit(c, bit)` (R83): the bit-serial realisation. -/
def crcUpdateBit (c : Word16) (bit : Bool) : Word16 :=
  if (c.getLsbD 15).xor bit then (c <<< 1) ^^^ Params.crcPoly else c <<< 1

/-- `crc_update` in the bit-serial form (R83): bit 7 first. -/
def crcUpdateSerial (c : Word16) (b : Byte) : Word16 :=
  [b.getLsbD 7, b.getLsbD 6, b.getLsbD 5, b.getLsbD 4, b.getLsbD 3, b.getLsbD 2, b.getLsbD 1, b.getLsbD 0].foldl
    crcUpdateBit c

/-- CRC16 (R84): the result port only. -/
def execCrc16 (data : List Byte) (s : State) : Host.Outcome State Fault Refusal :=
  .next (s.respond (.crc (crc16 data)))

end Sys2Proof.Machine
end

