-- ==== Sys2Proof/Config.lean ====
section
/-! DEFINITION. What a realisation fixes (00_scope.md R7): the open parameter CHUNK_MAX and what follows from it. -/

namespace Sys2Proof

/-- CHUNK_MAX less one. R7 leaves CHUNK_MAX open and asks only that it be at least 1, so nothing is known of this
number: every claim holds for each value it may have (log entry 2). -/
opaque Config.chunkMaxLessOne : Nat

/-- CHUNK_MAX, the most bytes one FEED may carry (R7, D4): an integer, at least 1. -/
def Config.chunkMax : Nat := Config.chunkMaxLessOne + 1

/-- BUF_CAP of R7 and 43_stream.md R139: `MAX_FRAME - 1 + CHUNK_MAX`. -/
def Config.bufCap : Nat := 65541 + Config.chunkMax

end Sys2Proof
end

