-- ==== Sys2Proof/Machine/Operands.lean ====
section
/-! DEFINITION. Operand forms: byte sequences, little-endian fields (00_scope.md R9, 20_memory.md R42) and the checks
of the command port (30_encoding.md R70). -/

namespace Sys2Proof.Machine

/-- `le16(v)` of R9: the low byte first (R42). -/
def le16 (v : Word16) : List Byte :=
  [v.extractLsb' 0 8, v.extractLsb' 8 8]

/-- The word of a low and a high byte (R9, R62). -/
def word16 (lo hi : Byte) : Word16 :=
  lo.zeroExtend 16 ||| (hi.zeroExtend 16 <<< 8)

/-- `rd_le16(s, i)` of R9. -/
def rdLe16 (b : List Byte) (i : Nat) : Except Fault Word16 :=
  match byteAt b i with
  | .error f => .error f
  | .ok lo =>
    match byteAt b (i + 1) with
    | .error f => .error f
    | .ok hi => .ok (word16 lo hi)

/-- `s[i : i + n]` of R9. -/
def slice (b : List Byte) (i n : Nat) : List Byte :=
  (b.drop i).take n

/-- Whether a byte sequence has at most `k` bytes (Laws/Operands.lean: atMost_iff). It looks at the bytes before the
number, so that an empty or one-byte chunk is admitted whatever CHUNK_MAX is. -/
def atMost : List Byte → Nat → Bool
  | [], _ => true
  | _ :: _, 0 => false
  | _ :: bs, k + 1 => atMost bs k

/-- The check of R70 on FEED's chunk: `len(chunk) <= CHUNK_MAX`. -/
def chunkAdmitted (chunk : List Byte) : Bool :=
  atMost chunk Config.chunkMax

/-- The check of R70 on ENCODE's type and seq. -/
def byteAdmitted (v : Int) : Bool :=
  decide (0 ≤ v ∧ v ≤ 255)

/-- The byte an admitted integer operand is. -/
def byteOf (v : Int) : Byte :=
  BitVec.ofInt 8 v

end Sys2Proof.Machine
end

