-- ==== Sys2Proof/Machine/Encoder.lean ====
section
/-! DEFINITION. The frame encoder (41_encoder.md) and the command ENCODE. -/

namespace Sys2Proof.Machine

/-- The frame of a type, a sequence and a payload (R60, R90): no byte is stuffed or changed (R93). -/
def frameBytes (type seq : Byte) (payload : List Byte) : List Byte :=
  [Params.sync] ++ le16 (BitVec.ofNat 16 payload.length) ++ [type, seq] ++ payload
    ++ le16 (crc16 ([type, seq] ++ payload))

/-- `encode(t, s, p)` (R90): the length check comes before any output (R91). -/
def encodeMessage (type seq : Byte) (payload : List Byte) : Except ErrorCode (List Byte) :=
  if payload.length > Params.maxPayload then .error .payloadTooLarge
  else .ok (frameBytes type seq payload)

/-- ENCODE (R90), after the port's check of its two integers (R70): the result port only. -/
def execEncode (type seq : Int) (payload : List Byte) (s : State) : Host.Outcome State Fault Refusal :=
  if byteAdmitted type && byteAdmitted seq then
    match encodeMessage (byteOf type) (byteOf seq) payload with
    | .ok bytes => .next (s.respond (.frame bytes))
    | .error e => .next (s.respond (.error e))
  else .refused .operandOutOfRange

end Sys2Proof.Machine
end

