-- ==== Sys2Proof/Machine/FrameDecoder.lean ====
section
/-! DEFINITION. The single-frame decoder (42_decoder.md) and the command TRY_DECODE. -/

namespace Sys2Proof.Machine

/-- The CRC check of R104 and the decode of R105 on a whole candidate frame with `n` payload bytes. -/
def checkCandidate (b : List Byte) (n : Nat) : Except Fault DecodeOutcome :=
  match byteAt b 3, byteAt b 4, rdLe16 b (5 + n) with
  | .ok type, .ok seq, .ok crc =>
    let payload := slice b 5 n
    if crc ≠ crc16 ([type, seq] ++ payload) then .ok (.invalid .badCrc)
    else .ok (.decoded { type := type, seq := seq, payload := payload } (7 + n))
  | .error f, _, _ => .error f
  | _, .error f, _ => .error f
  | _, _, .error f => .error f

/-- `try_decode(b)` (R100): short input, sync, declared length, CRC, in this order (R106). -/
def tryDecode (b : List Byte) : Except Fault DecodeOutcome :=
  if b.length < Params.minFrame then .ok .incomplete
  else
    match byteAt b 0 with
    | .error f => .error f
    | .ok b0 =>
      if b0 ≠ Params.sync then .ok (.invalid .badSync)
      else
        match rdLe16 b 1 with
        | .error f => .error f
        | .ok n =>
          if b.length < 7 + n.toNat then .ok .incomplete
          else checkCandidate b n.toNat

/-- TRY_DECODE (R100): the result port only. -/
def execTryDecode (bytes : List Byte) (s : State) : Host.Outcome State Fault Refusal :=
  match tryDecode bytes with
  | .error f => .fault f
  | .ok o => .next (s.respond (.outcome o))

end Sys2Proof.Machine
end

