-- ==== Sys2Proof/WellFormed.lean ====
section
/-! DEFINITION. Which operands an instruction may have (30_encoding.md R70, R60, R66) and which fit the binary script
form (R72). -/

namespace Sys2Proof

/-- The operand checks of R70 at the command port, the bound on a frame's payload (R60) and the range of the opaque
type codes (R66). A payload of ENCODE may have any length: PayloadTooLarge is ENCODE's own result (R70, R91). -/
def Instr.wellFormed : Instr → Bool
  | .reset => true
  | .feed chunk => decide (chunk.length ≤ Config.chunkMax)
  | .encode type seq _ => decide (0 ≤ type ∧ type ≤ 255 ∧ 0 ≤ seq ∧ seq ≤ 255)
  | .tryDecode _ => true
  | .crc16 _ => true
  | .s1WaitShort => true
  | .s1Proceed => true
  | .s2DiscardAll => true
  | .s2AtSync => true
  | .s2DiscardPrefix => true
  | .s3WaitIncomplete => true
  | .s3DropFalseSync => true
  | .s3Emit => true
  | .typeCommand => true
  | .typeResponse => true
  | .typeEvent => true
  | .typeAck => true
  | .typeNak => true
  | .typeData => true
  | .typeOpaque value => decide (value ∉ Params.namedTypes)
  | .frame _ _ payload => decide (payload.length ≤ Params.maxPayload)

/-- Whether the byte-sequence operand fits R72's `u32` count. Nothing but the script form depends on it. -/
def Instr.scriptable : Instr → Bool
  | .reset => true
  | .feed chunk => decide (chunk.length < 4294967296)
  | .encode _ _ payload => decide (payload.length < 4294967296)
  | .tryDecode bytes => decide (bytes.length < 4294967296)
  | .crc16 data => decide (data.length < 4294967296)
  | .s1WaitShort => true
  | .s1Proceed => true
  | .s2DiscardAll => true
  | .s2AtSync => true
  | .s2DiscardPrefix => true
  | .s3WaitIncomplete => true
  | .s3DropFalseSync => true
  | .s3Emit => true
  | .typeCommand => true
  | .typeResponse => true
  | .typeEvent => true
  | .typeAck => true
  | .typeNak => true
  | .typeData => true
  | .typeOpaque _ => true
  | .frame _ _ _ => true

end Sys2Proof
end

