-- ==== Sys2Proof/Decode.lean ====
section
/-! DEFINITION. Decoding and encoding. The table numbers its rows in three spaces: the selectors of commands and drain
actions (30_encoding.md R69, operands in R72's binary form), the type field of a frame (R66) and the frame on the wire
(R60). Each has its decoder, total on any bytes and rejecting by name. -/

namespace Sys2Proof

/-- The spaces the table's rows are numbered in. -/
inductive WordSpace where
  /-- Selector byte and operands (R69, R72). -/
  | selector
  /-- The type field, one byte (R66). -/
  | typeField
  /-- The frame, 7 + N bytes (R60). -/
  | wire
  deriving DecidableEq, Repr

/-- Why bytes are no instruction. -/
inductive Reject where
  /-- No byte to read. -/
  | empty
  /-- A selector that R69 assigns to no row. -/
  | unassignedSelector (selector : Byte)
  /-- The bytes end inside an operand of R72's form. -/
  | truncatedOperand
  /-- The bytes are no whole frame (R101, R103). -/
  | incompleteFrame
  /-- The frame is rejected (R67, R102, R104). -/
  | invalidFrame (r : Machine.InvalidReason)
  /-- The decoder's own read fault (R9); no input gives it. -/
  | readFault (f : Machine.Fault)
  deriving DecidableEq, Repr

/-- A `u32` little-endian count (R72). -/
def readCount : List Byte → Except Reject (Nat × List Byte)
  | b0 :: b1 :: b2 :: b3 :: rest =>
    .ok (b0.toNat + 256 * b1.toNat + 65536 * b2.toNat + 16777216 * b3.toNat, rest)
  | _ => .error .truncatedOperand

/-- A byte-sequence operand (R72): a count, then that many bytes. -/
def readBlock (bs : List Byte) : Except Reject (List Byte × List Byte) :=
  match readCount bs with
  | .error e => .error e
  | .ok (n, rest) =>
    if n ≤ rest.length then .ok (rest.take n, rest.drop n) else .error .truncatedOperand

/-- ENCODE's operands (R72, 95_test_vectors.md section 3): type and seq, one byte each, then the payload. -/
def readEncode : List Byte → Except Reject (Instr × List Byte)
  | t :: q :: rest =>
    match readBlock rest with
    | .error e => .error e
    | .ok (p, rest') => .ok (.encode t.toNat q.toNat p, rest')
  | _ => .error .truncatedOperand

/-- An instruction made of one byte-sequence operand. -/
def readBlockInstr (make : List Byte → Instr) (bs : List Byte) : Except Reject (Instr × List Byte) :=
  match readBlock bs with
  | .error e => .error e
  | .ok (p, rest) => .ok (make p, rest)

/-- The selectors of R69. -/
def decodeSelector : List Byte → Except Reject (Instr × List Byte)
  | [] => .error .empty
  | selector :: rest =>
    match selector.toNat with
    | 0x00 => .ok (.reset, rest)
    | 0x01 => readBlockInstr .feed rest
    | 0x02 => readEncode rest
    | 0x03 => readBlockInstr .tryDecode rest
    | 0x04 => readBlockInstr .crc16 rest
    | 0x80 => .ok (.s1WaitShort, rest)
    | 0x81 => .ok (.s1Proceed, rest)
    | 0x82 => .ok (.s2DiscardAll, rest)
    | 0x83 => .ok (.s2AtSync, rest)
    | 0x84 => .ok (.s2DiscardPrefix, rest)
    | 0x85 => .ok (.s3WaitIncomplete, rest)
    | 0x86 => .ok (.s3DropFalseSync, rest)
    | 0x87 => .ok (.s3Emit, rest)
    | _ => .error (.unassignedSelector selector)

/-- The type codes of R66: every byte has a row. -/
def typeFieldInstr (value : Byte) : Instr :=
  match value.toNat with
  | 0x01 => .typeCommand
  | 0x02 => .typeResponse
  | 0x03 => .typeEvent
  | 0x04 => .typeAck
  | 0x05 => .typeNak
  | 0x10 => .typeData
  | _ => .typeOpaque value

/-- The type field of a frame. -/
def decodeTypeField : List Byte → Except Reject (Instr × List Byte)
  | [] => .error .empty
  | value :: rest => .ok (typeFieldInstr value, rest)

/-- The frame on the wire (R60 to R65, R67, R71): the single-frame decoder reads it. -/
def decodeWire (bs : List Byte) : Except Reject (Instr × List Byte) :=
  match Machine.tryDecode bs with
  | .error f => .error (.readFault f)
  | .ok .incomplete => .error .incompleteFrame
  | .ok (.invalid r) => .error (.invalidFrame r)
  | .ok (.decoded m n) => .ok (.frame m.type m.seq m.payload, bs.drop n)

/-- The decoder of a space: the instruction at the front and the bytes after it. -/
def decodeIn : WordSpace → List Byte → Except Reject (Instr × List Byte)
  | .selector, bs => decodeSelector bs
  | .typeField, bs => decodeTypeField bs
  | .wire, bs => decodeWire bs

/-- The space an instruction is numbered in. -/
def instrSpace : Instr → WordSpace
  | .reset => .selector
  | .feed _ => .selector
  | .encode _ _ _ => .selector
  | .tryDecode _ => .selector
  | .crc16 _ => .selector
  | .s1WaitShort => .selector
  | .s1Proceed => .selector
  | .s2DiscardAll => .selector
  | .s2AtSync => .selector
  | .s2DiscardPrefix => .selector
  | .s3WaitIncomplete => .selector
  | .s3DropFalseSync => .selector
  | .s3Emit => .selector
  | .typeCommand => .typeField
  | .typeResponse => .typeField
  | .typeEvent => .typeField
  | .typeAck => .typeField
  | .typeNak => .typeField
  | .typeData => .typeField
  | .typeOpaque _ => .typeField
  | .frame _ _ _ => .wire

/-- `k` bytes of a number, the least significant first. -/
def bytesLe : Nat → Nat → List Byte
  | 0, _ => []
  | k + 1, v => BitVec.ofNat 8 v :: bytesLe k (v / 256)

/-- A byte-sequence operand in R72's form. -/
def blockBytes (p : List Byte) : List Byte :=
  bytesLe 4 p.length ++ p

/-- The bytes of an instruction: R69 and R72 for commands and actions, R66 for the type field, R60 for the frame. -/
def encode : Instr → List Byte
  | .reset => [0x00]
  | .feed chunk => 0x01 :: blockBytes chunk
  | .encode type seq payload => [0x02, Machine.byteOf type, Machine.byteOf seq] ++ blockBytes payload
  | .tryDecode bytes => 0x03 :: blockBytes bytes
  | .crc16 data => 0x04 :: blockBytes data
  | .s1WaitShort => [0x80]
  | .s1Proceed => [0x81]
  | .s2DiscardAll => [0x82]
  | .s2AtSync => [0x83]
  | .s2DiscardPrefix => [0x84]
  | .s3WaitIncomplete => [0x85]
  | .s3DropFalseSync => [0x86]
  | .s3Emit => [0x87]
  | .typeCommand => [0x01]
  | .typeResponse => [0x02]
  | .typeEvent => [0x03]
  | .typeAck => [0x04]
  | .typeNak => [0x05]
  | .typeData => [0x10]
  | .typeOpaque value => [value]
  | .frame type seq payload => Machine.frameBytes type seq payload

/-- The bytes of a table word of `nbits` bits, the first byte in bits 7..0, then zeros up to the longest instruction of
zero operands (ENCODE, 7 bytes). -/
def tableBytes (nbits w : Nat) : List Byte :=
  bytesLe (nbits / 8) w ++ bytesLe 7 0

/-- The instruction a table word is read as. A number alone does not say which of the three spaces it is in: an
assigned selector is read as a selector, 0xAA in a word of more than one byte as the sync of a frame, and every other
single byte as a type field (log entry 9). -/
def decodeTableWord (nbits w : Nat) : Option Instr :=
  match decodeSelector (tableBytes nbits w) with
  | .ok (i, _) => some i
  | .error _ =>
    match decodeIn (if nbits ≤ 8 then .typeField else .wire) (tableBytes nbits w) with
    | .ok (i, _) => some i
    | .error _ => none

end Sys2Proof
end

