-- ==== Sys2Proof/Machine/Drain.lean ====
section
/-! DEFINITION. The eight drain actions of the RX agent (43_stream.md R121 to R128), which of them is enabled (R120) and
the drain loop (R130). -/

namespace Sys2Proof.Machine

/-- The smallest offset of a sync byte, `min { i : buf[i] = 0xAA }` of R125, if there is one (R123). -/
def firstSync : List Byte → Option Nat
  | [] => none
  | b :: bs => if b = Params.sync then some 0 else (firstSync bs).map (· + 1)

/-- S1_WAIT_SHORT (R121). -/
def execS1WaitShort (s : State) : Host.Outcome State Fault Refusal :=
  if s.ctrl = .s1 ∧ s.buf.length < Params.minFrame then .next (s.setCtrl .q)
  else .refused .actionNotEnabled

/-- S1_PROCEED (R122). -/
def execS1Proceed (s : State) : Host.Outcome State Fault Refusal :=
  if s.ctrl = .s1 ∧ Params.minFrame ≤ s.buf.length then .next (s.setCtrl .s2)
  else .refused .actionNotEnabled

/-- S2_DISCARD_ALL (R123). -/
def execS2DiscardAll (s : State) : Host.Outcome State Fault Refusal :=
  if s.ctrl = .s2 ∧ firstSync s.buf = none then .next (s.bufClear.setCtrl .q)
  else .refused .actionNotEnabled

/-- S2_AT_SYNC (R124). -/
def execS2AtSync (s : State) : Host.Outcome State Fault Refusal :=
  if s.ctrl = .s2 ∧ firstSync s.buf = some 0 then .next (s.setCtrl .s3)
  else .refused .actionNotEnabled

/-- S2_DISCARD_PREFIX (R125). -/
def execS2DiscardPrefix (s : State) : Host.Outcome State Fault Refusal :=
  if s.ctrl = .s2 then
    match firstSync s.buf with
    | some (k + 1) => .next ((s.bufDrop (k + 1)).setCtrl .s1)
    | some 0 => .refused .actionNotEnabled
    | none => .refused .actionNotEnabled
  else .refused .actionNotEnabled

/-- S3_WAIT_INCOMPLETE (R126). -/
def execS3WaitIncomplete (s : State) : Host.Outcome State Fault Refusal :=
  if s.ctrl = .s3 then
    match tryDecode s.buf with
    | .error f => .fault f
    | .ok .incomplete => .next (s.setCtrl .q)
    | .ok (.invalid _) => .refused .actionNotEnabled
    | .ok (.decoded _ _) => .refused .actionNotEnabled
  else .refused .actionNotEnabled

/-- S3_DROP_FALSE_SYNC (R127, R152): FrameInvalid is recovered here. -/
def execS3DropFalseSync (s : State) : Host.Outcome State Fault Refusal :=
  if s.ctrl = .s3 then
    match tryDecode s.buf with
    | .error f => .fault f
    | .ok .incomplete => .refused .actionNotEnabled
    | .ok (.invalid _) => .next (((s.emitDiag .frameInvalidBadCrc).bufDrop 1).setCtrl .s2)
    | .ok (.decoded _ _) => .refused .actionNotEnabled
  else .refused .actionNotEnabled

/-- S3_EMIT (R128). -/
def execS3Emit (s : State) : Host.Outcome State Fault Refusal :=
  if s.ctrl = .s3 then
    match tryDecode s.buf with
    | .error f => .fault f
    | .ok .incomplete => .refused .actionNotEnabled
    | .ok (.invalid _) => .refused .actionNotEnabled
    | .ok (.decoded m n) => .next (((s.emitMsg m).bufDrop n).setCtrl .s1)
  else .refused .actionNotEnabled

/-- The drain actions (R69, selectors 0x80 to 0x87). -/
inductive DrainAction where
  | s1WaitShort
  | s1Proceed
  | s2DiscardAll
  | s2AtSync
  | s2DiscardPrefix
  | s3WaitIncomplete
  | s3DropFalseSync
  | s3Emit
  deriving DecidableEq, Repr

/-- The row of the table that a drain action is. -/
def actionInstr : DrainAction → Instr
  | .s1WaitShort => .s1WaitShort
  | .s1Proceed => .s1Proceed
  | .s2DiscardAll => .s2DiscardAll
  | .s2AtSync => .s2AtSync
  | .s2DiscardPrefix => .s2DiscardPrefix
  | .s3WaitIncomplete => .s3WaitIncomplete
  | .s3DropFalseSync => .s3DropFalseSync
  | .s3Emit => .s3Emit

/-- Take one action: its meaning. -/
def takeAction (a : DrainAction) (s : State) : Host.Outcome State Fault Refusal :=
  match a with
  | .s1WaitShort => execS1WaitShort s
  | .s1Proceed => execS1Proceed s
  | .s2DiscardAll => execS2DiscardAll s
  | .s2AtSync => execS2AtSync s
  | .s2DiscardPrefix => execS2DiscardPrefix s
  | .s3WaitIncomplete => execS3WaitIncomplete s
  | .s3DropFalseSync => execS3DropFalseSync s
  | .s3Emit => execS3Emit s

/-- The one action that is enabled (R120), chosen by `at` and the content of `buf` alone; none at Q. -/
def enabledAction (s : State) : Except Fault (Option DrainAction) :=
  match s.ctrl with
  | .q => .ok none
  | .s1 => .ok (some (if s.buf.length < Params.minFrame then .s1WaitShort else .s1Proceed))
  | .s2 =>
    match firstSync s.buf with
    | none => .ok (some .s2DiscardAll)
    | some 0 => .ok (some .s2AtSync)
    | some (_ + 1) => .ok (some .s2DiscardPrefix)
  | .s3 =>
    match tryDecode s.buf with
    | .error f => .error f
    | .ok .incomplete => .ok (some .s3WaitIncomplete)
    | .ok (.invalid _) => .ok (some .s3DropFalseSync)
    | .ok (.decoded _ _) => .ok (some .s3Emit)

/-- The RX agent's step: take the enabled action; at Q take none (R120). -/
def drainStep (s : State) : Host.Outcome State Fault Refusal :=
  match enabledAction s with
  | .error f => .fault f
  | .ok none => .next s
  | .ok (some a) => takeAction a s

/-- `while at != Q: take the one enabled drain action` (R130), with at most `fuel` actions; a drain that is not at Q
by then is the fault of 93_implementation_defined.md section 2. -/
def drain : Nat → State → Host.Outcome State Fault Refusal
  | 0, s => if s.ctrl = .q then .next s else .fault .drainDoesNotEnd
  | fuel + 1, s =>
    if s.ctrl = .q then .next s
    else
      match drainStep s with
      | .next s' => drain fuel s'
      | .fault f => .fault f
      | .refused r => .refused r

/-- The bound of R129: `3 * len(buf) + 3` actions. -/
def drainBound (s : State) : Nat := 3 * s.buf.length + 3

end Sys2Proof.Machine
end

