-- ==== Sys2Proof/Machine/Stream.lean ====
section
/-! DEFINITION. The commands of the byte-stream synchronizer: FEED and RESET (43_stream.md R130, R132). -/

namespace Sys2Proof.Machine

/-- `BufAppend(chunk); at <- S1` (R130): the RX side as a FEED leaves it before its first drain action. -/
def beginFeed (chunk : List Byte) (s : State) : State :=
  (s.bufAppend chunk).setCtrl .s1

/-- FEED (R130): append, drain to quiescence, return OK, as one transaction (20_memory.md R51; log entry 1). -/
def execFeed (chunk : List Byte) (s : State) : Host.Outcome State Fault Refusal :=
  if !chunkAdmitted chunk then .refused .chunkTooLong
  else if s.ctrl ≠ .q then .refused .notQuiescent
  else
    match drain (drainBound (beginFeed chunk s)) (beginFeed chunk s) with
    | .next t => .next (t.respond .ok)
    | .fault f => .fault f
    | .refused r => .refused r

/-- RESET (R132): the partial buffer is dropped; the logs are not changed. -/
def execReset (s : State) : Host.Outcome State Fault Refusal :=
  if s.ctrl ≠ .q then .refused .notQuiescent
  else .next ((s.bufClear.setCtrl .q).respond .ok)

end Sys2Proof.Machine
end

