-- ==== Sys2Proof/Machine/Wire.lean ====
section
/-! DEFINITION. The rows of the table that are contents of the RX byte stream and not commands: the type field of a
frame (30_encoding.md R66) and the frame (R60). Their meaning is their reception: bytes reach the block only by FEED
(20_memory.md R41), and one byte a FEED is the delivery that every CHUNK_MAX admits (00_scope.md R7). Log entries 7 and
8. -/

namespace Sys2Proof.Machine

/-- Deliver bytes one a FEED, oldest first (the byte-serial realisation of R7). -/
def receiveBytes : List Byte → State → Host.Outcome State Fault Refusal
  | [], s => .next s
  | b :: bs, s =>
    match execFeed [b] s with
    | .next t => receiveBytes bs t
    | .fault f => .fault f
    | .refused r => .refused r

/-- TYPE_COMMAND (R66): the type field 0x01 is received. -/
def execTypeCommand (s : State) : Host.Outcome State Fault Refusal :=
  receiveBytes [Params.typeCommand] s

/-- TYPE_RESPONSE (R66): the type field 0x02 is received. -/
def execTypeResponse (s : State) : Host.Outcome State Fault Refusal :=
  receiveBytes [Params.typeResponse] s

/-- TYPE_EVENT (R66): the type field 0x03 is received. -/
def execTypeEvent (s : State) : Host.Outcome State Fault Refusal :=
  receiveBytes [Params.typeEvent] s

/-- TYPE_ACK (R66): the type field 0x04 is received. -/
def execTypeAck (s : State) : Host.Outcome State Fault Refusal :=
  receiveBytes [Params.typeAck] s

/-- TYPE_NAK (R66): the type field 0x05 is received. -/
def execTypeNak (s : State) : Host.Outcome State Fault Refusal :=
  receiveBytes [Params.typeNak] s

/-- TYPE_DATA (R66): the type field 0x10 is received. -/
def execTypeData (s : State) : Host.Outcome State Fault Refusal :=
  receiveBytes [Params.typeData] s

/-- TYPE_OPAQUE (R66): a type field of any other value is received, and is not rejected. -/
def execTypeOpaque (value : Byte) (s : State) : Host.Outcome State Fault Refusal :=
  receiveBytes [value] s

/-- FRAME (R60, R71): the frame is received, from its sync byte to the high byte of its CRC. -/
def execFrame (type seq : Byte) (payload : List Byte) (s : State) : Host.Outcome State Fault Refusal :=
  if payload.length > Params.maxPayload then .refused .noSuchFrame
  else receiveBytes (frameBytes type seq payload) s

end Sys2Proof.Machine
end

