-- ==== Sys2Proof/Machine/Dispatch.lean ====
section
/-! DEFINITION. exec: one arm per instruction, each one call of its meaning. -/

namespace Sys2Proof.Machine

def exec (i : Instr) (s : State) : Host.Outcome State Fault Refusal :=
  match i with
  -- host commands
  | .reset => Sys2Proof.Machine.execReset s
  | .feed chunk => Sys2Proof.Machine.execFeed chunk s
  | .encode type seq payload => Sys2Proof.Machine.execEncode type seq payload s
  | .tryDecode bytes => Sys2Proof.Machine.execTryDecode bytes s
  | .crc16 data => Sys2Proof.Machine.execCrc16 data s
  -- drain actions
  | .s1WaitShort => Sys2Proof.Machine.execS1WaitShort s
  | .s1Proceed => Sys2Proof.Machine.execS1Proceed s
  | .s2DiscardAll => Sys2Proof.Machine.execS2DiscardAll s
  | .s2AtSync => Sys2Proof.Machine.execS2AtSync s
  | .s2DiscardPrefix => Sys2Proof.Machine.execS2DiscardPrefix s
  | .s3WaitIncomplete => Sys2Proof.Machine.execS3WaitIncomplete s
  | .s3DropFalseSync => Sys2Proof.Machine.execS3DropFalseSync s
  | .s3Emit => Sys2Proof.Machine.execS3Emit s
  -- the type field and the frame
  | .typeCommand => Sys2Proof.Machine.execTypeCommand s
  | .typeResponse => Sys2Proof.Machine.execTypeResponse s
  | .typeEvent => Sys2Proof.Machine.execTypeEvent s
  | .typeAck => Sys2Proof.Machine.execTypeAck s
  | .typeNak => Sys2Proof.Machine.execTypeNak s
  | .typeData => Sys2Proof.Machine.execTypeData s
  | .typeOpaque value => Sys2Proof.Machine.execTypeOpaque value s
  | .frame type seq payload => Sys2Proof.Machine.execFrame type seq payload s

end Sys2Proof.Machine
end

