-- ==== Sys2Proof/Machine/Fetch.lean ====
section
/-! DEFINITION. Where the next instruction comes from: at Q the host's next command, through the command port
(30_encoding.md R69, R70); elsewhere the RX agent's enabled action (43_stream.md R120). Log entries 4 and 6. -/

namespace Sys2Proof.Machine

/-- What a step has to do. -/
inductive Fetched where
  /-- Quiescent and no command pending: the block takes no action (R120, R166). -/
  | idle
  /-- Run the instruction in this state. -/
  | run (i : Instr) (s : State)
  deriving DecidableEq, Repr

/-- The command port: the next command of the script, admitted or refused (R69, R70). -/
def fetchCommand (s : State) : Host.Outcome Fetched Fault Refusal :=
  match decodeSelector s.script with
  | .ok (i, rest) =>
    if i.isHostCommand then .next (.run i { s with script := rest }) else .refused .internalSelector
  | .error .empty => .next .idle
  | .error (.unassignedSelector _) => .refused .unassignedSelector
  | .error .truncatedOperand => .refused .malformedOperands
  | .error .incompleteFrame => .refused .malformedOperands
  | .error (.invalidFrame _) => .refused .malformedOperands
  | .error (.readFault f) => .fault f

/-- The next instruction: at Q the port's, elsewhere the RX agent's one enabled action. -/
def fetch (s : State) : Host.Outcome Fetched Fault Refusal :=
  match enabledAction s with
  | .error f => .fault f
  | .ok (some a) => .next (.run (actionInstr a) s)
  | .ok none => fetchCommand s

/-- A state in which a drain action is the enabled one: the control state and the buffer of its rule's example (R121
to R128), the rest of `s` as it is. -/
def enableAction (i : Instr) (s : State) : Option State :=
  match i with
  | .s1WaitShort => some { s with ctrl := .s1, buf := [0xAA, 0x00, 0x00] }
  | .s1Proceed => some { s with ctrl := .s1, buf := [0xAA, 0x00, 0x00, 0x01, 0x05, 0x9B, 0x7E] }
  | .s2DiscardAll => some { s with ctrl := .s2, buf := [0x11, 0x22, 0x33, 0x44, 0x55, 0x66, 0x77] }
  | .s2AtSync => some { s with ctrl := .s2, buf := [0xAA, 0x00, 0x00, 0x01, 0x05, 0x9B, 0x7E] }
  | .s2DiscardPrefix => some { s with ctrl := .s2, buf := [0x00, 0xFF, 0xAA, 0x00, 0x00, 0x01, 0x05, 0x9B, 0x7E] }
  | .s3WaitIncomplete => some { s with ctrl := .s3, buf := [0xAA, 0x05, 0x00, 0x01, 0x02, 0x03, 0x04] }
  | .s3DropFalseSync => some { s with ctrl := .s3, buf := [0xAA, 0x00, 0x00, 0x01, 0x05, 0x00, 0x00] }
  | .s3Emit => some { s with ctrl := .s3, buf := [0xAA, 0x00, 0x00, 0x01, 0x05, 0x9B, 0x7E] }
  | .reset => none
  | .feed _ => none
  | .encode _ _ _ => none
  | .tryDecode _ => none
  | .crc16 _ => none
  | .typeCommand => none
  | .typeResponse => none
  | .typeEvent => none
  | .typeAck => none
  | .typeNak => none
  | .typeData => none
  | .typeOpaque _ => none
  | .frame _ _ _ => none

/-- One-byte FEEDs of these bytes, in R72's form. -/
def feedScript (bytes : List Byte) : List Byte :=
  bytes.flatMap fun b => encode (.feed [b])

/-- `s` with a table word placed so that the next step runs it: a command at the front of the script, with `at` at Q;
a drain action enabled by its control state and buffer; a type field or a frame delivered by one-byte FEEDs at the front
of the script (log entry 4). -/
def placeWord (s : State) (nbits w : Nat) : State :=
  match decodeTableWord nbits w with
  | none => { s with ctrl := .q, script := tableBytes nbits w ++ s.script }
  | some i =>
    match enableAction i s with
    | some t => t
    | none =>
      if i.isHostCommand then { s with ctrl := .q, script := encode i ++ s.script }
      else { s with ctrl := .q, script := feedScript (encode i) ++ s.script }

end Sys2Proof.Machine
end

