-- ==== Sys2Proof/Machine/Step.lean ====
section
/-! DEFINITION. One step of the machine: run what fetch gives. -/

namespace Sys2Proof.Machine

/-- One step: the instruction that `fetch` gives, run by `exec`; with nothing to do the state stays as it is (R120). -/
def step (s : State) : Host.Outcome State Fault Refusal :=
  match fetch s with
  | .next .idle => .next s
  | .next (.run i t) => exec i t
  | .fault f => .fault f
  | .refused r => .refused r

/-- `s` with a word of the opcode table placed where `step` fetches its next instruction. -/
def State.withFetchWord (s : State) (nbits w : Nat) : State :=
  placeWord s nbits w

end Sys2Proof.Machine
end

