-- ==== Sys2Proof/Machine/Flags.lean ====
section
/-! DEFINITION. The block has no condition flags (10_state.md R29; every operation rule says "Flags written: none").
Its only status values are the results, outcomes and reasons; these are the numbers a realisation reports them by
(60_exceptions.md R153). -/

namespace Sys2Proof.Machine

/-- The result status of ENCODE, FEED and RESET (R153): OK = 0, PAYLOAD_TOO_LARGE = 1. The queries TRY_DECODE and
CRC16 report no status. -/
def Result.statusCode : Result → Option Nat
  | .ok => some 0
  | .frame _ => some 0
  | .error .payloadTooLarge => some 1
  | .outcome _ => none
  | .crc _ => none

/-- The tag of a TRY_DECODE result (R153). -/
def DecodeOutcome.tag : DecodeOutcome → Nat
  | .decoded _ _ => 0
  | .incomplete => 1
  | .invalid _ => 2

/-- The reason of a TRY_DECODE result with tag Invalid (R153). -/
def InvalidReason.code : InvalidReason → Nat
  | .badSync => 1
  | .badCrc => 2

/-- The reason of a diagnostic record (R153). -/
def DiagReason.code : DiagReason → Nat
  | .frameInvalidBadCrc => 2

end Sys2Proof.Machine
end

