-- ==== Sys2Proof/Safety.lean ====
section
/-! DEFINITION. The terms claims are stated in: what a candidate frame's bytes say (30_encoding.md R62 to R65), the
invariants of the RX side (43_stream.md R133, R139), of the logs (10_state.md R22, R32), and runs of FEEDs and of drain
actions. -/

namespace Sys2Proof.Machine

/-- The payload length that the bytes at offsets 1 and 2 declare (R62); 0 stands for a byte that is not there. -/
def declaredLength (b : List Byte) : Nat :=
  (b.getD 1 0).toNat + 256 * (b.getD 2 0).toNat

/-- The message a candidate frame with `n` payload bytes holds (R63). -/
def candidateMessage (b : List Byte) (n : Nat) : Message :=
  { type := b.getD 3 0, seq := b.getD 4 0, payload := (b.drop 5).take n }

/-- The CRC field of a candidate frame with `n` payload bytes (R64). -/
def candidateCrc (b : List Byte) (n : Nat) : Nat :=
  (b.getD (5 + n) 0).toNat + 256 * (b.getD (6 + n) 0).toNat

/-- The CRC over type, sequence and payload (R65). -/
def messageCrc (m : Message) : Word16 :=
  crc16 ([m.type, m.seq] ++ m.payload)

/-- The quiescence condition of R133 on the buffer: fewer than 7 bytes, or a sync byte first and the declared length
past the bytes held. -/
def Quiescent (b : List Byte) : Prop :=
  b.length < 7 ∨ (b.head? = some 0xAA ∧ b.length < 7 + declaredLength b)

/-- The invariant of the RX side: R133 at Q, and at S3 the sync byte that R124 found. -/
def RxInv (s : State) : Prop :=
  (s.ctrl = .q → Quiescent s.buf) ∧ (s.ctrl = .s3 → s.buf.head? = some 0xAA)

/-- The buffer bound of R139: BUF_CAP in every state, 65541 bytes at Q. -/
def BufBounded (s : State) : Prop :=
  s.buf.length ≤ Config.bufCap ∧ (s.ctrl = .q → s.buf.length ≤ 65541)

/-- The common order of R32: each log's positions rise, and together they are 0, 1, ... with no gap and no repeat. -/
def LogsInOrder (s : State) : Prop :=
  (s.msgLog.map (·.pos)).Pairwise (· < ·) ∧ (s.diagLog.map (·.pos)).Pairwise (· < ·) ∧
    (s.msgLog.map (·.pos) ++ s.diagLog.map (·.pos)).Perm (List.range s.nextPos)

/-- The bound of R22 on every record of the message log. -/
def PayloadsFit (s : State) : Prop :=
  ∀ r ∈ s.msgLog, r.msg.payload.length ≤ 65535

/-- `k` drain actions taken by the machine's own steps, none of them at Q. -/
def actionsBySteps : Nat → State → Option State
  | 0, s => some s
  | k + 1, s =>
    if s.ctrl = .q then none
    else
      match step s with
      | .next t => actionsBySteps k t
      | .fault _ => none
      | .refused _ => none

/-- Successive FEEDs of these chunks. -/
def feedAll : List (List Byte) → State → Host.Outcome State Fault Refusal
  | [], s => .next s
  | c :: cs, s =>
    match exec (.feed c) s with
    | .next t => feedAll cs t
    | .fault f => .fault f
    | .refused r => .refused r

/-- What is left after the leading run of bytes that are not 0xAA (R135). -/
def fromSync (b : List Byte) : List Byte :=
  b.dropWhile (· ≠ 0xAA)

/-- A byte sequence with bit `i` flipped, bit 0 the least significant of the byte at offset 0 (R112). -/
def flipBit (b : List Byte) (i : Nat) : List Byte :=
  b.modify (i / 8) (· ^^^ BitVec.twoPow 8 (i % 8))

/-- The records of messages emitted one after the other from position `p` on. -/
def recordsFrom : Nat → List Message → List MsgRecord
  | _, [] => []
  | p, m :: ms => { pos := p, msg := m } :: recordsFrom (p + 1) ms

end Sys2Proof.Machine
end

