-- ==== Sys2Proof/Certificates/Slice0/Obligations.lean ====
section
/-! DEFINITION. The statements for the provers. Rules are those of spec/; a statement that rests on an inference the spec
marks as its own, or on a log entry, says so. -/

open Sys2Proof Sys2Proof.Machine

/-- R170: at power-on the buffer is empty, `at` is Q and the logs are empty, and `RESET` gives the same. -/
def Obligations.PowerOnIsTheResetState : Prop :=
  State.reset.buf = [] ∧ State.reset.ctrl = .q ∧ State.reset.msgLog = [] ∧ State.reset.diagLog = [] ∧
    ∃ t, exec .reset State.reset = .next t ∧ t.buf = [] ∧ t.ctrl = .q ∧ t.msgLog = [] ∧ t.diagLog = []

/-- R132: at Q, `RESET` clears the buffer, stays at Q, returns OK and changes nothing else. -/
def Obligations.ResetDropsThePartialBuffer : Prop :=
  ∀ s : State, s.ctrl = .q →
    exec .reset s = .next { s with buf := [], ctrl := .q, results := s.results ++ [.ok] }

/-- 93_implementation_defined.md section 2: `FEED` and `RESET` have no transition while `at` is not Q. -/
def Obligations.FeedAndResetRefusedWhileDraining : Prop :=
  ∀ (chunk : List Byte) (s : State), chunk.length ≤ Config.chunkMax → s.ctrl ≠ .q →
    exec .reset s = .refused .notQuiescent ∧ exec (.feed chunk) s = .refused .notQuiescent

/-- R130: `FEED` appends the chunk, sets `at` to S1, takes drain actions (here the machine's own steps) until `at` is
Q, and returns OK. -/
def Obligations.FeedAppendsAndDrainsToQuiescence : Prop :=
  ∀ (chunk : List Byte) (s : State), chunk.length ≤ Config.chunkMax → s.ctrl = .q →
    ∃ k u, actionsBySteps k { s with buf := s.buf ++ chunk, ctrl := .s1 } = some u ∧ u.ctrl = .q ∧
      exec (.feed chunk) s = .next { u with results := u.results ++ [.ok] }

/-- The bound that the spec derives in R129: from any state with `at` not Q, the machine's own steps reach Q after at
least one and at most `3 * len(buf) + 3` drain actions. -/
def Obligations.DrainEndsWithinTheBound : Prop :=
  ∀ s : State, s.ctrl ≠ .q →
    ∃ k u, 1 ≤ k ∧ k ≤ 3 * s.buf.length + 3 ∧ actionsBySteps k s = some u ∧ u.ctrl = .q

/-- R70, in any state: a chunk over CHUNK_MAX is refused, an ENCODE with type or seq outside 0..255 is refused, any
other ENCODE (a payload over 65535 bytes gets its error), TRY_DECODE and CRC16 are never refused, and `RESET` and an
admitted `FEED` are not refused at Q. -/
def Obligations.PortChecksOperands : Prop :=
  (∀ (chunk : List Byte) (s : State), Config.chunkMax < chunk.length → exec (.feed chunk) s = .refused .chunkTooLong) ∧
  (∀ (t q : Int) (p : List Byte) (s : State), (t < 0 ∨ 255 < t ∨ q < 0 ∨ 255 < q) →
    exec (.encode t q p) s = .refused .operandOutOfRange) ∧
  (∀ (t q : Int) (p : List Byte) (s : State), 0 ≤ t → t ≤ 255 → 0 ≤ q → q ≤ 255 →
    (∃ u, exec (.encode t q p) s = .next u) ∧
    (65535 < p.length →
      exec (.encode t q p) s = .next { s with results := s.results ++ [.error .payloadTooLarge] })) ∧
  (∀ (b : List Byte) (s : State), ∃ u, exec (.tryDecode b) s = .next u) ∧
  (∀ (b : List Byte) (s : State), ∃ u, exec (.crc16 b) s = .next u) ∧
  (∀ (chunk : List Byte) (s : State), s.ctrl = .q →
    (∃ u, exec .reset s = .next u) ∧ (chunk.length ≤ Config.chunkMax → ∃ u, exec (.feed chunk) s = .next u))

/-- R84: `CRC16` returns the register that starts at 0xFFFF and takes the bytes in stream order, each by R82: the
byte exclusive-ored into bits 15..8, then eight shifts, with 0x1021 exclusive-ored in when bit 15 was set. Nothing
else changes. -/
def Obligations.Crc16ReturnsTheFoldedRegister : Prop :=
  ∀ (data : List Byte) (s : State),
    exec (.crc16 data) s = .next { s with results := s.results ++ [.crc (data.foldl
      (fun c b => (List.range 8).foldl
        (fun r _ => if r.getLsbD 15 then (r <<< 1) ^^^ 0x1021#16 else r <<< 1)
        (c ^^^ (BitVec.ofNat 16 b.toNat <<< 8))) 0xFFFF#16)] }

/-- The inference of R86: the CRC of a concatenation continues from the register after the first part. -/
def Obligations.CrcIsIncremental : Prop :=
  ∀ a b : List Byte, crc16 (a ++ b) = b.foldl crcUpdate (crc16 a)

/-- The inference of R83: the bit-serial form gives the same register for every register and byte. -/
def Obligations.BitSerialCrcIsTheByteWiseCrc : Prop :=
  ∀ (c : Word16) (b : Byte), crcUpdateSerial c b = crcUpdate c b

/-- The polynomial over GF(2) of a bit vector: bit `i` is the coefficient of `x^i`. -/
noncomputable def polyOfBits {w : Nat} (v : BitVec w) : Polynomial (ZMod 2) :=
  (Finset.range w).sum fun i => if v.getLsbD i then Polynomial.X ^ i else 0

/-- The polynomial of a byte sequence (R85): the first byte's bit 7 is the highest term. -/
noncomputable def polyOfBytes : List Byte → Polynomial (ZMod 2)
  | [] => 0
  | b :: bs => polyOfBits b * Polynomial.X ^ (8 * bs.length) + polyOfBytes bs

/-- The algebraic form that R85 gives from general knowledge: the CRC is the remainder of
`M(x) * x^16 + I(x) * x^(8n)` by the generator `x^16 + x^12 + x^5 + 1`. -/
def Obligations.CrcIsThePolynomialRemainder : Prop :=
  ∀ data : List Byte,
    polyOfBits (crc16 data) =
      (polyOfBytes data * Polynomial.X ^ 16 + polyOfBits 0xFFFF#16 * Polynomial.X ^ (8 * data.length)) %ₘ
        (Polynomial.X ^ 16 + Polynomial.X ^ 12 + Polynomial.X ^ 5 + 1)

/-- R90, R91: a payload over 65535 bytes gives the error and no frame; any other gives the frame, laid out low byte
first with the CRC of type, sequence and payload. Nothing else changes. -/
def Obligations.EncodeReturnsTheFrame : Prop :=
  ∀ (t q : Byte) (p : List Byte) (s : State),
    exec (.encode t.toNat q.toNat p) s = .next { s with results := s.results ++ [
      if 65535 < p.length then .error .payloadTooLarge
      else .frame ([0xAA, BitVec.ofNat 8 (p.length % 256), BitVec.ofNat 8 (p.length / 256), t, q] ++ p ++
        [BitVec.ofNat 8 ((crc16 ([t, q] ++ p)).toNat % 256), BitVec.ofNat 8 ((crc16 ([t, q] ++ p)).toNat / 256)])] }

/-- R100: the five outcomes of `TRY_DECODE`, in the order of the checks, for every byte sequence and state. Nothing
else changes. -/
def Obligations.TryDecodeChecksInOrder : Prop :=
  ∀ (b : List Byte) (s : State),
    exec (.tryDecode b) s = .next { s with results := s.results ++ [.outcome (
      let n := (b.getD 1 0).toNat + 256 * (b.getD 2 0).toNat
      let t := b.getD 3 0
      let q := b.getD 4 0
      let p := (b.drop 5).take n
      if b.length < 7 then .incomplete
      else if b.getD 0 0 ≠ 0xAA then .invalid .badSync
      else if b.length < 7 + n then .incomplete
      else if (b.getD (5 + n) 0).toNat + 256 * (b.getD (6 + n) 0).toNat ≠ (crc16 ([t, q] ++ p)).toNat then
        .invalid .badCrc
      else .decoded { type := t, seq := q, payload := p } (7 + n))] }

/-- R121. -/
def Obligations.S1WaitShortKeepsTheBuffer : Prop :=
  ∀ s : State, s.ctrl = .s1 → s.buf.length < 7 → exec .s1WaitShort s = .next { s with ctrl := .q }

/-- R122. -/
def Obligations.S1ProceedGoesToS2 : Prop :=
  ∀ s : State, s.ctrl = .s1 → 7 ≤ s.buf.length → exec .s1Proceed s = .next { s with ctrl := .s2 }

/-- R123. -/
def Obligations.S2DiscardAllClearsTheBuffer : Prop :=
  ∀ s : State, s.ctrl = .s2 → (∀ i < s.buf.length, s.buf[i]? ≠ some 0xAA) →
    exec .s2DiscardAll s = .next { s with buf := [], ctrl := .q }

/-- R124. -/
def Obligations.S2AtSyncGoesToS3 : Prop :=
  ∀ s : State, s.ctrl = .s2 → 1 ≤ s.buf.length → s.buf[0]? = some 0xAA →
    exec .s2AtSync s = .next { s with ctrl := .s3 }

/-- R125. -/
def Obligations.S2DiscardPrefixDropsTheNoise : Prop :=
  ∀ (s : State) (k : Nat), s.ctrl = .s2 → 0 < k → s.buf[k]? = some 0xAA → (∀ i < k, s.buf[i]? ≠ some 0xAA) →
    exec .s2DiscardPrefix s = .next { s with buf := s.buf.drop k, ctrl := .s1 }

/-- R126. -/
def Obligations.S3WaitIncompleteKeepsTheBuffer : Prop :=
  ∀ s : State, s.ctrl = .s3 → tryDecode s.buf = .ok .incomplete →
    exec .s3WaitIncomplete s = .next { s with ctrl := .q }

/-- S3_DROP_FALSE_SYNC (R127): one diagnostic record at the next place of the common order, one byte dropped, on to S2.
That places count from 0 is the model's choice (log entry 14). That the reason is BadCrc with a sync byte first is an
inference that R127 marks as its own, from R124 and R106. -/
def Obligations.S3DropFalseSyncDropsOneByte : Prop :=
  ∀ (s : State) (r : InvalidReason), s.ctrl = .s3 → tryDecode s.buf = .ok (.invalid r) →
    exec .s3DropFalseSync s = .next { s with
      diagLog := s.diagLog ++ [{ pos := s.msgLog.length + s.diagLog.length, reason := .frameInvalidBadCrc }]
      buf := s.buf.drop 1
      ctrl := .s2 } ∧
    (s.buf[0]? = some 0xAA → r = .badCrc)

/-- R128: one message record at the next place of the common order, the frame's bytes dropped (7 plus the declared
length, 7 to 65542, all of them held), back to S1. That places count from 0 is the model's choice (log entry 14). -/
def Obligations.S3EmitDeliversTheMessage : Prop :=
  ∀ (s : State) (m : Message) (n : Nat), s.ctrl = .s3 → tryDecode s.buf = .ok (.decoded m n) →
    exec .s3Emit s = .next { s with
      msgLog := s.msgLog ++ [{ pos := s.msgLog.length + s.diagLog.length, msg := m }]
      buf := s.buf.drop n
      ctrl := .s1 } ∧
    n = 7 + declaredLength s.buf ∧ 7 ≤ n ∧ n ≤ 65542 ∧ n ≤ s.buf.length

/-- The inference of R120: at S1, S2 and S3 exactly one drain action runs, and every other is refused; at Q none
runs. -/
def Obligations.ExactlyOneDrainActionIsEnabled : Prop :=
  ∀ s : State,
    (s.ctrl ≠ .q → ∃ a t, exec (actionInstr a) s = .next t ∧
      ∀ b, b ≠ a → exec (actionInstr b) s = .refused .actionNotEnabled) ∧
    (s.ctrl = .q → ∀ b, exec (actionInstr b) s = .refused .actionNotEnabled)

/-- A step at S1, S2 or S3 is the meaning of one drain action in that state. -/
def Obligations.StepTakesTheEnabledAction : Prop :=
  ∀ s : State, s.ctrl ≠ .q → ∃ a t, step s = exec (actionInstr a) s ∧ exec (actionInstr a) s = .next t

/-- At Q, a step whose script begins with the bytes of a host command is the meaning of that command, in the state
whose script is what follows. That commands arrive by a script is the model's choice (log entry 4). -/
def Obligations.StepRunsTheDecodedCommand : Prop :=
  ∀ (s : State) (i : Instr) (rest : List Byte), s.ctrl = .q → decodeIn .selector s.script = .ok (i, rest) →
    i.isHostCommand = true → step s = exec i { s with script := rest }

/-- At Q with no command pending a step changes nothing. That commands arrive by a script is the model's choice (log
entry 4). -/
def Obligations.StepIdlesWithoutACommand : Prop :=
  ∀ s : State, s.ctrl = .q → s.script = [] → step s = .next s

/-- R69: the selector of every command and action, and the refusal of every other selector and of the internal ones at
the command port. -/
def Obligations.CommandPortSelectors : Prop :=
  encode .reset = [0x00] ∧ (∀ c, (encode (.feed c)).head? = some 0x01) ∧
  (∀ t q p, (encode (.encode t q p)).head? = some 0x02) ∧ (∀ b, (encode (.tryDecode b)).head? = some 0x03) ∧
  (∀ b, (encode (.crc16 b)).head? = some 0x04) ∧
  encode .s1WaitShort = [0x80] ∧ encode .s1Proceed = [0x81] ∧ encode .s2DiscardAll = [0x82] ∧
  encode .s2AtSync = [0x83] ∧ encode .s2DiscardPrefix = [0x84] ∧ encode .s3WaitIncomplete = [0x85] ∧
  encode .s3DropFalseSync = [0x86] ∧ encode .s3Emit = [0x87] ∧
  ∀ (s : State) (selector : Byte) (rest : List Byte), s.ctrl = .q → s.script = selector :: rest →
    ((0x05 ≤ selector.toNat ∧ selector.toNat ≤ 0x7F) ∨ 0x88 ≤ selector.toNat →
      step s = .refused .unassignedSelector) ∧
    (0x80 ≤ selector.toNat ∧ selector.toNat ≤ 0x87 → step s = .refused .internalSelector)

/-- Every well-formed instruction whose operands fit R72's count is read back from its bytes, whatever follows them. -/
def Obligations.DecodeReadsBackEncode : Prop :=
  ∀ (i : Instr) (rest : List Byte), i.wellFormed = true → i.scriptable = true →
    decodeIn (instrSpace i) (encode i ++ rest) = .ok (i, rest)

/-- Words written out from R69, R72, R66 and R60 decode to what they stand for. -/
def Obligations.WrittenOutWordsDecode : Prop :=
  decodeIn .selector [0x02, 0x01, 0x05, 0x00, 0x00, 0x00, 0x00] = .ok (.encode 1 5 [], []) ∧
  decodeIn .selector [0x01, 0x01, 0x00, 0x00, 0x00, 0xAA, 0x04] = .ok (.feed [0xAA], [0x04]) ∧
  decodeIn .selector [0x86] = .ok (.s3DropFalseSync, []) ∧
  decodeIn .typeField [0x10, 0x00] = .ok (.typeData, [0x00]) ∧
  decodeIn .wire [0xAA, 0x00, 0x00, 0x01, 0x05, 0x9B, 0x7E, 0x11] = .ok (.frame 0x01 0x05 [], [0x11])

/-- The round trip that the spec derives in R94, by commands: what `ENCODE` returns, followed by any bytes, decodes to
its operands and consumes the whole frame. -/
def Obligations.EncodeThenTryDecodeRoundTrips : Prop :=
  ∀ (t q : Byte) (p x : List Byte) (s : State), p.length ≤ 65535 →
    ∃ f, exec (.encode t.toNat q.toNat p) s = .next { s with results := s.results ++ [.frame f] } ∧
      f.length = 7 + p.length ∧
      exec (.tryDecode (f ++ x)) s = .next { s with results := s.results ++
        [.outcome (.decoded { type := t, seq := q, payload := p } (7 + p.length))] }

/-- The stability that the spec derives in R111: only `Incomplete` can change when more bytes follow, and with 7 bytes
it says that the first is the sync byte. -/
def Obligations.OutcomesAreStableUnderExtension : Prop :=
  ∀ (b x : List Byte) (o : DecodeOutcome), tryDecode b = .ok o →
    (o ≠ .incomplete → tryDecode (b ++ x) = .ok o) ∧ (o = .incomplete → 7 ≤ b.length → b[0]? = some 0xAA)

/-- The single-bit errors that the spec derives in R112 for the frame of any message: sync, type, sequence, payload and
CRC bits are always found out; a length bit that was 0 makes the frame incomplete; one that was 1 gives a bad CRC or a
shorter message. -/
def Obligations.SingleBitErrorsAreFoundOut : Prop :=
  ∀ (t q : Byte) (p : List Byte) (i : Nat), p.length ≤ 65535 → i < 8 * (7 + p.length) →
    (i < 8 → tryDecode (flipBit (frameBytes t q p) i) = .ok (.invalid .badSync)) ∧
    (8 ≤ i → i < 24 → p.length.testBit (i - 8) = false →
      tryDecode (flipBit (frameBytes t q p) i) = .ok .incomplete) ∧
    (8 ≤ i → i < 24 → p.length.testBit (i - 8) = true →
      tryDecode (flipBit (frameBytes t q p) i) = .ok (.invalid .badCrc) ∨
      ∃ m n, tryDecode (flipBit (frameBytes t q p) i) = .ok (.decoded m n) ∧ n < 7 + p.length) ∧
    (24 ≤ i → tryDecode (flipBit (frameBytes t q p) i) = .ok (.invalid .badCrc))

/-- No instruction and no step faults, in any state: the reads are guarded (R107), the drain ends (R129) and no other
exception exists (R155); each is an inference of the spec. -/
def Obligations.NothingFaults : Prop :=
  (∀ (i : Instr) (s : State) (f : Fault), exec i s ≠ .fault f) ∧ ∀ (s : State) (f : Fault), step s ≠ .fault f

/-- The quiescence invariant that the spec derives in R133, with the sync byte at S3 (R124): every instruction and
every step keeps it. -/
def Obligations.StepKeepsTheRxInvariant : Prop :=
  (∀ (i : Instr) (s t : State), RxInv s → exec i s = .next t → RxInv t) ∧
    ∀ s t : State, RxInv s → step s = .next t → RxInv t

/-- The buffer bound that the spec derives in R139: every instruction and every step keeps it, and the append of an
admitted FEED at Q meets it. -/
def Obligations.StepKeepsTheBufferBound : Prop :=
  (∀ (i : Instr) (s t : State), RxInv s → BufBounded s → exec i s = .next t → BufBounded t) ∧
  (∀ s t : State, RxInv s → BufBounded s → step s = .next t → BufBounded t) ∧
  ∀ (chunk : List Byte) (s : State), s.ctrl = .q → BufBounded s → chunk.length ≤ Config.chunkMax →
    s.buf.length + chunk.length ≤ Config.bufCap

/-- The common order of the two logs (R32): every instruction and every step keeps the positions of both logs rising
and together without gap or repeat. -/
def Obligations.StepKeepsTheLogsInOrder : Prop :=
  (∀ (i : Instr) (s t : State), LogsInOrder s → exec i s = .next t → LogsInOrder t) ∧
    ∀ s t : State, LogsInOrder s → step s = .next t → LogsInOrder t

/-- The bound of R22 on the payload of every message record: every instruction and every step keeps it. -/
def Obligations.StepKeepsPayloadsInSixteenBits : Prop :=
  (∀ (i : Instr) (s t : State), PayloadsFit s → exec i s = .next t → PayloadsFit t) ∧
    ∀ s t : State, PayloadsFit s → step s = .next t → PayloadsFit t

/-- The reset state meets the four invariants. -/
def Obligations.ResetMeetsTheInvariants : Prop :=
  RxInv State.reset ∧ BufBounded State.reset ∧ LogsInOrder State.reset ∧ PayloadsFit State.reset

/-- The logs only grow at their ends: no record is dropped, changed or reordered (R23, R24). So does the list of the
values the result port has returned, which the model holds by choice (log entry 3; R27, R182). -/
def Obligations.LogsOnlyGrow : Prop :=
  ∀ (i : Instr) (s t : State), exec i s = .next t →
    s.msgLog <+: t.msgLog ∧ s.diagLog <+: t.diagLog ∧ s.results <+: t.results

/-- The access matrix that the spec derives in R33, as frames: what a query, RESET and each drain action leave
unchanged, and that no instruction writes the pending commands, a field that is the model's choice (log entry 4). -/
def Obligations.AccessMatrix : Prop :=
  (∀ (i : Instr) (s t : State), exec i s = .next t → t.script = s.script) ∧
  (∀ (ty q : Int) (p b d : List Byte) (s t : State),
    (exec (.encode ty q p) s = .next t ∨ exec (.tryDecode b) s = .next t ∨ exec (.crc16 d) s = .next t) →
    t.buf = s.buf ∧ t.ctrl = s.ctrl ∧ t.msgLog = s.msgLog ∧ t.diagLog = s.diagLog) ∧
  (∀ s t : State, exec .reset s = .next t → t.msgLog = s.msgLog ∧ t.diagLog = s.diagLog) ∧
  ∀ (a : DrainAction) (s t : State), exec (actionInstr a) s = .next t →
    t.results = s.results ∧ (a ≠ .s3Emit → t.msgLog = s.msgLog) ∧ (a ≠ .s3DropFalseSync → t.diagLog = s.diagLog)

/-- The buffer is a FIFO (R46): a drain action only removes bytes from its front, and no more than it holds. -/
def Obligations.DrainActionsOnlyDropFromTheFront : Prop :=
  ∀ (a : DrainAction) (s t : State), exec (actionInstr a) s = .next t →
    ∃ k, k ≤ s.buf.length ∧ t.buf = s.buf.drop k

/-- The inference of R131: from a quiescent state an empty FEED returns OK and changes nothing else. -/
def Obligations.EmptyFeedChangesNothing : Prop :=
  ∀ s : State, RxInv s → s.ctrl = .q → exec (.feed []) s = .next { s with results := s.results ++ [.ok] }

/-- The hazard of R175: while a candidate that the buffer begins with is not complete, a FEED only lengthens the
buffer. -/
def Obligations.FeedHoldsAnIncompleteCandidate : Prop :=
  ∀ (chunk : List Byte) (s : State), s.ctrl = .q → chunk.length ≤ Config.chunkMax →
    (s.buf ++ chunk).head? = some 0xAA → 7 ≤ (s.buf ++ chunk).length →
    (s.buf ++ chunk).length < 7 + declaredLength (s.buf ++ chunk) →
    exec (.feed chunk) s = .next { s with buf := s.buf ++ chunk, results := s.results ++ [.ok] }

/-- The chunk independence that the spec derives in R134 and R135: two ways of cutting one byte stream into FEEDs, from
the same quiescent state, give the same records in the same order, and buffers that differ only by a leading run of
bytes that are not 0xAA. -/
def Obligations.ChunkingDoesNotChangeTheRecords : Prop :=
  ∀ (cs ds : List (List Byte)) (s : State), RxInv s → s.ctrl = .q →
    (∀ c ∈ cs, c.length ≤ Config.chunkMax) → (∀ d ∈ ds, d.length ≤ Config.chunkMax) → cs.flatten = ds.flatten →
    ∃ t u, feedAll cs s = .next t ∧ feedAll ds s = .next u ∧ t.msgLog = u.msgLog ∧ t.diagLog = u.diagLog ∧
      fromSync t.buf = fromSync u.buf

/-- Resynchronization as the spec derives it in R138, with noise that holds no sync byte (so its two conditions hold):
frames of these messages with such noise around them, in any chunking from an empty buffer, give exactly these messages
in order and no diagnostic. That record positions count from 0 is the model's choice (log entry 14). -/
def Obligations.FramesInNoiseAreAllEmitted : Prop :=
  ∀ (parts : List (List Byte × Message)) (tail : List Byte) (cs : List (List Byte)) (s : State),
    s.ctrl = .q → s.buf = [] → (∀ c ∈ cs, c.length ≤ Config.chunkMax) →
    (∀ x ∈ parts, (0xAA : Byte) ∉ x.1 ∧ x.2.payload.length ≤ 65535) → (0xAA : Byte) ∉ tail →
    cs.flatten = parts.flatMap (fun x => x.1 ++ frameBytes x.2.type x.2.seq x.2.payload) ++ tail →
    ∃ t, feedAll cs s = .next t ∧ t.ctrl = .q ∧ t.diagLog = s.diagLog ∧
      t.msgLog = s.msgLog ++ recordsFrom s.nextPos (parts.map (·.2))

/-- False-sync recovery as the spec derives it in R140: a rejected candidate with no further sync byte, then a frame,
in any chunking from an empty buffer, gives one diagnostic, then the frame's message, and leaves the buffer empty. That
record positions count from 0 is the model's choice (log entry 14). -/
def Obligations.FalseSyncIsRecovered : Prop :=
  ∀ (c : List Byte) (m : Message) (cs : List (List Byte)) (s : State), s.ctrl = .q → s.buf = [] →
    m.payload.length ≤ 65535 → tryDecode (0xAA :: c) = .ok (.invalid .badCrc) → (0xAA : Byte) ∉ c →
    (∀ x ∈ cs, x.length ≤ Config.chunkMax) → cs.flatten = (0xAA :: c) ++ frameBytes m.type m.seq m.payload →
    feedAll cs s = .next { s with
      msgLog := s.msgLog ++ [{ pos := s.nextPos + 1, msg := m }]
      diagLog := s.diagLog ++ [{ pos := s.nextPos, reason := .frameInvalidBadCrc }]
      results := s.results ++ List.replicate cs.length .ok }

/-- The reception of a frame (the model's meaning of the row FRAME, log entry 8): from an empty quiescent buffer it
emits exactly its message and leaves the buffer empty; each of its bytes is one FEED. A payload over 65535 bytes is no
frame of R60. That record positions count from 0 is the model's choice (log entry 14). -/
def Obligations.FrameReceptionEmitsItsMessage : Prop :=
  ∀ (t q : Byte) (p : List Byte) (s : State),
    (65535 < p.length → exec (.frame t q p) s = .refused .noSuchFrame) ∧
    (p.length ≤ 65535 → s.ctrl = .q → s.buf = [] →
      exec (.frame t q p) s = .next { s with
        msgLog := s.msgLog ++ [{ pos := s.nextPos, msg := { type := t, seq := q, payload := p } }]
        results := s.results ++ List.replicate (7 + p.length) .ok })

/-- The reception of a type field (the model's meaning of the TYPE rows, log entry 7) after the three bytes before it
in a frame (R60): the byte is held unchanged whatever its value, and nothing is rejected or reported (R66). -/
def Obligations.TypeFieldIsHeldUnchanged : Prop :=
  ∀ (lo hi v : Byte) (s : State), s.ctrl = .q → s.buf = [0xAA, lo, hi] →
    let after (x : Byte) : Host.Outcome State Fault Refusal :=
      .next { s with buf := [0xAA, lo, hi, x], results := s.results ++ [.ok] }
    exec .typeCommand s = after 0x01 ∧ exec .typeResponse s = after 0x02 ∧ exec .typeEvent s = after 0x03 ∧
    exec .typeAck s = after 0x04 ∧ exec .typeNak s = after 0x05 ∧ exec .typeData s = after 0x10 ∧
    exec (.typeOpaque v) s = after v

/-- The names of R66 have no effect: the row that the type field reads as does what a one-byte FEED of the field does,
in every state. -/
def Obligations.TypeNamesHaveNoEffect : Prop :=
  ∀ (v : Byte) (rest : List Byte) (s : State),
    ∃ i, decodeIn .typeField (v :: rest) = .ok (i, rest) ∧ encode i = [v] ∧ exec i s = exec (.feed [v]) s

/-- At Q every row of the RX byte stream is received to the end, whatever the buffer holds. -/
def Obligations.WireRowsCompleteAtQuiescence : Prop :=
  ∀ (i : Instr) (s : State), instrSpace i ≠ .selector → i.wellFormed = true → s.ctrl = .q →
    ∃ t, exec i s = .next t ∧ t.ctrl = .q

/-- R50, the TX side: an admitted query returns one value, the same in every state, and changes nothing else. The list
the value is appended to is the model's choice (log entry 3). -/
def Obligations.QueriesDoNotSeeTheState : Prop :=
  ∀ i : Instr, i.wellFormed = true →
    ((∃ t q p, i = .encode t q p) ∨ (∃ b, i = .tryDecode b) ∨ ∃ d, i = .crc16 d) →
    ∃ r, ∀ s : State, exec i s = .next { s with results := s.results ++ [r] }

/-- The RX side of R50, whose two directions share no mutable state, said of two fields that are the model's choices:
the list of the values the result port has returned (log entry 3) and the script of pending commands (log entry 4, of
which no rule speaks) have no influence on what any instruction does to the buffer, to `at` and to the logs, nor on the
values it returns. -/
def Obligations.RxSideDoesNotSeeResultsOrScript : Prop :=
  ∀ (i : Instr) (s t : State) (rs : List Result) (sc : List Byte), exec i s = .next t →
    ∃ new, t.results = s.results ++ new ∧
      exec i { s with results := rs, script := sc } = .next { t with results := rs ++ new, script := sc }

/-- R153: the numeric codes. -/
def Obligations.ResultAndRecordCodes : Prop :=
  Result.ok.statusCode = some 0 ∧ (∀ b, (Result.frame b).statusCode = some 0) ∧
  (Result.error .payloadTooLarge).statusCode = some 1 ∧
  (∀ m n, (DecodeOutcome.decoded m n).tag = 0) ∧ DecodeOutcome.incomplete.tag = 1 ∧
  (∀ r, (DecodeOutcome.invalid r).tag = 2) ∧
  InvalidReason.badSync.code = 1 ∧ InvalidReason.badCrc.code = 2 ∧ DiagReason.frameInvalidBadCrc.code = 2
end

