-- ==== Sys2Proof/Laws/Crc.lean ====
section
/-! SUPPORT. The CRC register's update is linear over exclusive-or (40_crc.md R82). -/

namespace Sys2Proof.Machine

theorem crcShift_xor (c d : Word16) : crcShift (c ^^^ d) = crcShift c ^^^ crcShift d := by
  have cancel (x y : Word16) : x ^^^ Params.crcPoly ^^^ (y ^^^ Params.crcPoly) = x ^^^ y := by
    rw [BitVec.xor_comm y, BitVec.xor_assoc, ← BitVec.xor_assoc Params.crcPoly, BitVec.xor_self, BitVec.zero_xor]
  simp only [crcShift, BitVec.getLsbD_xor, BitVec.shiftLeft_xor_distrib]
  cases c.getLsbD 15 <;> cases d.getLsbD 15
  · rfl
  · simp [BitVec.xor_assoc]
  · simp only [Bool.xor_false, if_true, Bool.false_eq_true, if_false]
    ac_rfl
  · simp [cancel]

theorem crcShifts_xor (k : Nat) (c d : Word16) : crcShifts k (c ^^^ d) = crcShifts k c ^^^ crcShifts k d := by
  induction k generalizing c d with
  | zero => rfl
  | succ k ih => simp only [crcShifts, crcShift_xor, ih]

/-- The update depends on the register and the byte only through `c ^ (b << 8)`, and is linear in it. -/
theorem crcUpdate_xor (c d : Word16) (a b : Byte) :
    crcUpdate (c ^^^ d) (a ^^^ b) = crcUpdate c a ^^^ crcUpdate d b := by
  simp only [crcUpdate, ← crcShifts_xor]
  congr 1
  simp only [BitVec.truncate_eq_setWidth, BitVec.setWidth_xor, BitVec.shiftLeft_xor_distrib]
  ac_rfl

/-- A shift loses nothing: only the zero register shifts to zero. -/
theorem crcShift_eq_zero {c : Word16} (h : crcShift c = 0) : c = 0 := by
  unfold crcShift at h
  split at h
  · have h0 := congrArg (fun v : Word16 => v.getLsbD 0) h
    simp [Params.crcPoly] at h0
  · rename_i h15
    have hlt : c.toNat < 32768 := by
      by_contra hge
      exact h15 (by
        rw [BitVec.getLsbD, Nat.testBit_eq_decide_div_mod_eq]
        have := c.isLt
        exact decide_eq_true (by omega))
    have h0 := congrArg BitVec.toNat h
    apply BitVec.eq_of_toNat_eq
    simp only [BitVec.toNat_shiftLeft, Nat.shiftLeft_eq] at h0
    change c.toNat * 2 ^ 1 % 2 ^ 16 = 0 at h0
    change c.toNat = 0
    omega

theorem crcShifts_eq_zero {k : Nat} {c : Word16} (h : crcShifts k c = 0) : c = 0 := by
  induction k generalizing c with
  | zero => exact h
  | succ k ih => exact crcShift_eq_zero (ih h)

end Sys2Proof.Machine
end

