-- ==== Sys2Proof/Laws/Operands.lean ====
section
/-! SUPPORT. Operand forms: the port's checks, reads and the little-endian pair. -/

namespace Sys2Proof.Machine

theorem atMost_iff (bs : List Byte) (k : Nat) : atMost bs k = true ↔ bs.length ≤ k := by
  induction bs generalizing k with
  | nil => simp [atMost]
  | cons b bs ih => cases k <;> simp [atMost, ih]

theorem chunkAdmitted_iff (chunk : List Byte) : chunkAdmitted chunk = true ↔ chunk.length ≤ Config.chunkMax :=
  atMost_iff _ _

theorem one_le_chunkMax : 1 ≤ Config.chunkMax := Nat.le_add_left _ _

/-- A one-byte delivery is admitted whatever CHUNK_MAX is (R7). -/
@[simp] theorem chunkAdmitted_singleton (b : Byte) : chunkAdmitted [b] = true :=
  (chunkAdmitted_iff _).2 one_le_chunkMax

@[simp] theorem chunkAdmitted_nil : chunkAdmitted [] = true := rfl

theorem byteAdmitted_iff (v : Int) : byteAdmitted v = true ↔ 0 ≤ v ∧ v ≤ 255 := by simp [byteAdmitted]

@[simp] theorem byteAdmitted_toNat (b : Byte) : byteAdmitted (b.toNat : Int) = true := by
  have := b.isLt
  simp [byteAdmitted_iff]; omega

@[simp] theorem byteOf_toNat (b : Byte) : byteOf (b.toNat : Int) = b := by
  apply BitVec.eq_of_toNat_eq
  have := b.isLt
  simp [byteOf]

/-- A guarded read answers the byte (R45). -/
theorem byteAt_of_lt {b : List Byte} {i : Nat} (h : i < b.length) : byteAt b i = .ok b[i] := by
  simp [byteAt, List.getElem?_eq_getElem h]

theorem byteAt_of_getElem? {b : List Byte} {i : Nat} {x : Byte} (h : b[i]? = some x) : byteAt b i = .ok x := by
  simp [byteAt, h]

theorem rdLe16_of_lt {b : List Byte} {i : Nat} (h : i + 1 < b.length) :
    rdLe16 b i = .ok (word16 b[i] b[i + 1]) := by
  simp [rdLe16, byteAt_of_lt (Nat.lt_of_succ_lt h), byteAt_of_lt h]

/-- The value of a length field (R62): the low byte plus 256 times the high byte. -/
theorem word16_toNat (lo hi : Byte) : (word16 lo hi).toNat = lo.toNat + 256 * hi.toNat := by
  have hl := lo.isLt
  have hh := hi.isLt
  have e : (hi.toNat <<< 8) % 65536 = 2 ^ 8 * hi.toNat := by
    rw [Nat.shiftLeft_eq, Nat.mod_eq_of_lt (by omega), Nat.mul_comm]
  simp only [word16, BitVec.truncate_eq_setWidth, BitVec.toNat_or, BitVec.toNat_setWidth, BitVec.toNat_shiftLeft]
  rw [Nat.mod_eq_of_lt (show lo.toNat < 2 ^ 16 by omega), Nat.mod_eq_of_lt (show hi.toNat < 2 ^ 16 by omega), e,
    Nat.or_comm, ← Nat.two_pow_add_eq_or_of_lt hl]
  omega

theorem le16_eq (v : Word16) : le16 v = [v.extractLsb' 0 8, v.extractLsb' 8 8] := rfl

@[simp] theorem le16_length (v : Word16) : (le16 v).length = 2 := rfl

/-- Reading back the two bytes that `le16` writes gives the word (R42). -/
@[simp] theorem word16_le16 (v : Word16) : word16 (v.extractLsb' 0 8) (v.extractLsb' 8 8) = v := by
  apply BitVec.eq_of_toNat_eq
  have := v.isLt
  rw [word16_toNat]
  simp only [BitVec.extractLsb'_toNat, Nat.shiftRight_eq_div_pow]
  omega

end Sys2Proof.Machine
end

