-- ==== Sys2Proof/Laws/FrameDecoder.lean ====
section
/-! SUPPORT. What `try_decode` can answer (42_decoder.md R100 to R107), said once. -/

namespace Sys2Proof.Machine

theorem declaredLength_le (b : List Byte) : declaredLength b ≤ 65535 := by
  have h1 := (b.getD 1 0).isLt
  have h2 := (b.getD 2 0).isLt
  unfold declaredLength; omega

/-- Only the bytes at offsets 1 and 2 count. -/
theorem declaredLength_append {b : List Byte} (x : List Byte) (h : 3 ≤ b.length) :
    declaredLength (b ++ x) = declaredLength b := by
  simp only [declaredLength, List.getD_eq_getElem?_getD]
  rw [List.getElem?_append_left (by omega), List.getElem?_append_left (by omega)]

theorem rdLe16_one {b : List Byte} (h : 7 ≤ b.length) :
    ∃ n : Word16, rdLe16 b 1 = .ok n ∧ n.toNat = declaredLength b := by
  refine ⟨_, rdLe16_of_lt (by omega), ?_⟩
  rw [word16_toNat]
  simp only [declaredLength, List.getD_eq_getElem?_getD]
  rw [List.getElem?_eq_getElem (show 1 < b.length by omega), List.getElem?_eq_getElem (show 2 < b.length by omega)]
  rfl

/-- On a whole candidate the answer is the CRC comparison (R104, R105). -/
theorem checkCandidate_eq {b : List Byte} {n : Nat} (h : 7 + n ≤ b.length) :
    checkCandidate b n =
      .ok (if candidateCrc b n ≠ (messageCrc (candidateMessage b n)).toNat then .invalid .badCrc
        else .decoded (candidateMessage b n) (7 + n)) := by
  have e3 : b.getD 3 0 = b[3] := by simp [List.getD_eq_getElem?_getD, List.getElem?_eq_getElem (show 3 < b.length by omega)]
  have e4 : b.getD 4 0 = b[4] := by simp [List.getD_eq_getElem?_getD, List.getElem?_eq_getElem (show 4 < b.length by omega)]
  have e5 : b.getD (5 + n) 0 = b[5 + n] := by
    simp [List.getD_eq_getElem?_getD, List.getElem?_eq_getElem (show 5 + n < b.length by omega)]
  have e6 : b.getD (6 + n) 0 = b[5 + n + 1] := by
    simp [List.getD_eq_getElem?_getD, show 6 + n = 5 + n + 1 by omega,
      List.getElem?_eq_getElem (show 5 + n + 1 < b.length by omega)]
  simp only [checkCandidate, byteAt_of_lt (show 3 < b.length by omega), byteAt_of_lt (show 4 < b.length by omega),
    rdLe16_of_lt (show 5 + n + 1 < b.length by omega), candidateCrc, messageCrc, candidateMessage, slice, e3, e4, e5,
    e6, ← word16_toNat, ne_eq, BitVec.toNat_inj]
  exact (apply_ite _ _ _ _).symm

/-- Fewer than 7 bytes (R101). -/
theorem tryDecode_short {b : List Byte} (h : b.length < 7) : tryDecode b = .ok .incomplete := by
  simp [tryDecode, Params.minFrame, h]

/-- The whole of R100 on 7 bytes or more. -/
theorem tryDecode_long {b : List Byte} (h : 7 ≤ b.length) :
    tryDecode b = .ok
      (if b.head? ≠ some Params.sync then .invalid .badSync
      else if b.length < 7 + declaredLength b then .incomplete
      else if candidateCrc b (declaredLength b) ≠ (messageCrc (candidateMessage b (declaredLength b))).toNat then
        .invalid .badCrc
      else .decoded (candidateMessage b (declaredLength b)) (7 + declaredLength b)) := by
  obtain ⟨n, hn, hd⟩ := rdLe16_one h
  have hh : b.head? = some b[0] := by
    rw [List.head?_eq_getElem?]
    exact List.getElem?_eq_getElem (by omega)
  simp only [tryDecode, Params.minFrame, Nat.not_lt.2 h, if_false, byteAt_of_lt (show 0 < b.length by omega), hn, hd, hh]
  by_cases h0 : b[0] = Params.sync
  · by_cases hl : b.length < 7 + declaredLength b
    · simp [h0, hl]
    · simp [h0, hl, checkCandidate_eq (Nat.not_lt.1 hl)]
  · simp [h0]

/-- Everything `try_decode` can answer, with what holds of the bytes in each case (R101 to R105). -/
theorem tryDecode_cases (b : List Byte) :
    (b.length < 7 ∧ tryDecode b = .ok .incomplete) ∨
    (7 ≤ b.length ∧ b.head? ≠ some Params.sync ∧ tryDecode b = .ok (.invalid .badSync)) ∨
    (7 ≤ b.length ∧ b.head? = some Params.sync ∧ b.length < 7 + declaredLength b ∧
      tryDecode b = .ok .incomplete) ∨
    (7 + declaredLength b ≤ b.length ∧ b.head? = some Params.sync ∧
      candidateCrc b (declaredLength b) ≠ (messageCrc (candidateMessage b (declaredLength b))).toNat ∧
      tryDecode b = .ok (.invalid .badCrc)) ∨
    (7 + declaredLength b ≤ b.length ∧ b.head? = some Params.sync ∧
      candidateCrc b (declaredLength b) = (messageCrc (candidateMessage b (declaredLength b))).toNat ∧
      tryDecode b = .ok (.decoded (candidateMessage b (declaredLength b)) (7 + declaredLength b))) := by
  by_cases h : b.length < 7
  · exact .inl ⟨h, tryDecode_short h⟩
  have h7 : 7 ≤ b.length := Nat.not_lt.1 h
  rw [tryDecode_long h7]
  by_cases h0 : b.head? = some Params.sync
  · by_cases hl : b.length < 7 + declaredLength b
    · exact .inr (.inr (.inl ⟨h7, h0, hl, by simp [h0, hl]⟩))
    · by_cases hc : candidateCrc b (declaredLength b) = (messageCrc (candidateMessage b (declaredLength b))).toNat
      · exact .inr (.inr (.inr (.inr ⟨by omega, h0, hc, by simp [h0, hl, hc]⟩)))
      · exact .inr (.inr (.inr (.inl ⟨by omega, h0, hc, by simp [h0, hl, hc]⟩)))
  · exact .inr (.inl ⟨h7, h0, by simp [h0]⟩)

/-- What a decoded outcome says (R105): the consumed count lies between 7 and the bytes present, and the payload has
the declared length. -/
theorem tryDecode_decoded {b : List Byte} {m : Message} {n : Nat} (h : tryDecode b = .ok (.decoded m n)) :
    b.head? = some Params.sync ∧ n = 7 + declaredLength b ∧ n ≤ b.length ∧
      m = candidateMessage b (declaredLength b) ∧ m.payload.length = declaredLength b := by
  rcases tryDecode_cases b with ⟨_, e⟩ | ⟨_, _, e⟩ | ⟨_, _, _, e⟩ | ⟨_, _, _, e⟩ | ⟨hl, h0, _, e⟩ <;> rw [e] at h <;>
    cases h
  refine ⟨h0, rfl, hl, rfl, ?_⟩
  simp only [candidateMessage, List.length_take, List.length_drop]
  omega

end Sys2Proof.Machine
end

