-- ==== Sys2Proof/Laws/Encoder.lean ====
section
/-! SUPPORT. What the bytes of an encoded frame say (30_encoding.md R60 to R65). -/

namespace Sys2Proof.Machine

/-- A frame has 7 bytes more than its payload (R60). -/
@[simp] theorem frameBytes_length (t q : Byte) (p : List Byte) : (frameBytes t q p).length = 7 + p.length := by
  simp [frameBytes]; omega

/-- A frame begins with the sync byte (R61). -/
theorem frameBytes_head (t q : Byte) (p x : List Byte) : (frameBytes t q p ++ x).head? = some Params.sync := rfl

/-- The length field declares the payload's length (R62). -/
theorem declaredLength_frameBytes (t q : Byte) {p : List Byte} (x : List Byte) (h : p.length ≤ 65535) :
    declaredLength (frameBytes t q p ++ x) = p.length := by
  have e : declaredLength (frameBytes t q p ++ x) =
      ((BitVec.ofNat 16 p.length).extractLsb' 0 8).toNat + 256 * ((BitVec.ofNat 16 p.length).extractLsb' 8 8).toNat := rfl
  rw [e, ← word16_toNat, word16_le16, BitVec.toNat_ofNat]
  omega

/-- Type, sequence and payload of a frame are those it was built from (R63). -/
theorem candidateMessage_frameBytes (t q : Byte) (p x : List Byte) :
    candidateMessage (frameBytes t q p ++ x) p.length = { type := t, seq := q, payload := p } := by
  simp [candidateMessage, frameBytes, le16]

/-- The CRC field of a frame holds the CRC of its message (R64, R65). -/
theorem candidateCrc_frameBytes (t q : Byte) (p x : List Byte) :
    candidateCrc (frameBytes t q p ++ x) p.length = (messageCrc { type := t, seq := q, payload := p }).toNat := by
  have e (k : Nat) : (frameBytes t q p ++ x)[5 + p.length + k]? = (le16 (crc16 ([t, q] ++ p)) ++ x)[k]? := by
    have : frameBytes t q p ++ x =
        ([Params.sync] ++ le16 (BitVec.ofNat 16 p.length) ++ [t, q] ++ p) ++ (le16 (crc16 ([t, q] ++ p)) ++ x) := by
      simp [frameBytes]
    rw [this, List.getElem?_append_right (by simp; omega)]
    congr 1
    simp; omega
  have e0 := e 0
  have e1 := e 1
  rw [candidateCrc, List.getD_eq_getElem?_getD, List.getD_eq_getElem?_getD,
    show 6 + p.length = 5 + p.length + 1 by omega, e1, ← Nat.add_zero (5 + p.length), e0, messageCrc]
  simp only [le16, List.cons_append, List.getElem?_cons_zero, List.getElem?_cons_succ, Option.getD_some]
  rw [← word16_toNat, word16_le16]

end Sys2Proof.Machine
end

