-- ==== Sys2Proof/Laws/Decode.lean ====
section
/-! SUPPORT. Reading back the operands of the script form (30_encoding.md R72). -/

namespace Sys2Proof

@[simp] theorem bytesLe_length (k v : Nat) : (bytesLe k v).length = k := by
  induction k generalizing v with
  | zero => rfl
  | succ k ih => simp [bytesLe, ih]

/-- A count below 2^32 is read back from its four bytes. -/
theorem readCount_bytesLe {n : Nat} (h : n < 4294967296) (rest : List Byte) :
    readCount (bytesLe 4 n ++ rest) = .ok (n, rest) := by
  simp only [bytesLe, List.cons_append, List.nil_append, readCount, BitVec.toNat_ofNat]
  congr 2
  omega

/-- A byte-sequence operand is read back, whatever follows it. -/
theorem readBlock_blockBytes {p : List Byte} (h : p.length < 4294967296) (rest : List Byte) :
    readBlock (blockBytes p ++ rest) = .ok (p, rest) := by
  simp [readBlock, blockBytes, List.append_assoc, readCount_bytesLe h]

end Sys2Proof
end

