-- ==== Sys2Proof/Laws/State.lean ====
section
/-! SUPPORT. One lemma per field and per update of the state, so that no later proof unfolds a record update. -/

namespace Sys2Proof.Machine

@[simp] theorem bufAppend_buf (s : State) (bs : List Byte) : (s.bufAppend bs).buf = s.buf ++ bs := rfl
@[simp] theorem bufAppend_ctrl (s : State) (bs : List Byte) : (s.bufAppend bs).ctrl = s.ctrl := rfl
@[simp] theorem bufAppend_msgLog (s : State) (bs : List Byte) : (s.bufAppend bs).msgLog = s.msgLog := rfl
@[simp] theorem bufAppend_diagLog (s : State) (bs : List Byte) : (s.bufAppend bs).diagLog = s.diagLog := rfl
@[simp] theorem bufAppend_results (s : State) (bs : List Byte) : (s.bufAppend bs).results = s.results := rfl
@[simp] theorem bufAppend_script (s : State) (bs : List Byte) : (s.bufAppend bs).script = s.script := rfl

@[simp] theorem bufDrop_buf (s : State) (k : Nat) : (s.bufDrop k).buf = s.buf.drop k := rfl
@[simp] theorem bufDrop_ctrl (s : State) (k : Nat) : (s.bufDrop k).ctrl = s.ctrl := rfl
@[simp] theorem bufDrop_msgLog (s : State) (k : Nat) : (s.bufDrop k).msgLog = s.msgLog := rfl
@[simp] theorem bufDrop_diagLog (s : State) (k : Nat) : (s.bufDrop k).diagLog = s.diagLog := rfl
@[simp] theorem bufDrop_results (s : State) (k : Nat) : (s.bufDrop k).results = s.results := rfl
@[simp] theorem bufDrop_script (s : State) (k : Nat) : (s.bufDrop k).script = s.script := rfl

@[simp] theorem bufClear_buf (s : State) : s.bufClear.buf = [] := rfl
@[simp] theorem bufClear_ctrl (s : State) : s.bufClear.ctrl = s.ctrl := rfl
@[simp] theorem bufClear_msgLog (s : State) : s.bufClear.msgLog = s.msgLog := rfl
@[simp] theorem bufClear_diagLog (s : State) : s.bufClear.diagLog = s.diagLog := rfl
@[simp] theorem bufClear_results (s : State) : s.bufClear.results = s.results := rfl
@[simp] theorem bufClear_script (s : State) : s.bufClear.script = s.script := rfl

@[simp] theorem setCtrl_buf (s : State) (c : Ctrl) : (s.setCtrl c).buf = s.buf := rfl
@[simp] theorem setCtrl_ctrl (s : State) (c : Ctrl) : (s.setCtrl c).ctrl = c := rfl
@[simp] theorem setCtrl_msgLog (s : State) (c : Ctrl) : (s.setCtrl c).msgLog = s.msgLog := rfl
@[simp] theorem setCtrl_diagLog (s : State) (c : Ctrl) : (s.setCtrl c).diagLog = s.diagLog := rfl
@[simp] theorem setCtrl_results (s : State) (c : Ctrl) : (s.setCtrl c).results = s.results := rfl
@[simp] theorem setCtrl_script (s : State) (c : Ctrl) : (s.setCtrl c).script = s.script := rfl

@[simp] theorem emitMsg_buf (s : State) (m : Message) : (s.emitMsg m).buf = s.buf := rfl
@[simp] theorem emitMsg_ctrl (s : State) (m : Message) : (s.emitMsg m).ctrl = s.ctrl := rfl
@[simp] theorem emitMsg_msgLog (s : State) (m : Message) :
    (s.emitMsg m).msgLog = s.msgLog ++ [{ pos := s.nextPos, msg := m }] := rfl
@[simp] theorem emitMsg_diagLog (s : State) (m : Message) : (s.emitMsg m).diagLog = s.diagLog := rfl
@[simp] theorem emitMsg_results (s : State) (m : Message) : (s.emitMsg m).results = s.results := rfl
@[simp] theorem emitMsg_script (s : State) (m : Message) : (s.emitMsg m).script = s.script := rfl

@[simp] theorem emitDiag_buf (s : State) (r : DiagReason) : (s.emitDiag r).buf = s.buf := rfl
@[simp] theorem emitDiag_ctrl (s : State) (r : DiagReason) : (s.emitDiag r).ctrl = s.ctrl := rfl
@[simp] theorem emitDiag_msgLog (s : State) (r : DiagReason) : (s.emitDiag r).msgLog = s.msgLog := rfl
@[simp] theorem emitDiag_diagLog (s : State) (r : DiagReason) :
    (s.emitDiag r).diagLog = s.diagLog ++ [{ pos := s.nextPos, reason := r }] := rfl
@[simp] theorem emitDiag_results (s : State) (r : DiagReason) : (s.emitDiag r).results = s.results := rfl
@[simp] theorem emitDiag_script (s : State) (r : DiagReason) : (s.emitDiag r).script = s.script := rfl

@[simp] theorem respond_buf (s : State) (r : Result) : (s.respond r).buf = s.buf := rfl
@[simp] theorem respond_ctrl (s : State) (r : Result) : (s.respond r).ctrl = s.ctrl := rfl
@[simp] theorem respond_msgLog (s : State) (r : Result) : (s.respond r).msgLog = s.msgLog := rfl
@[simp] theorem respond_diagLog (s : State) (r : Result) : (s.respond r).diagLog = s.diagLog := rfl
@[simp] theorem respond_results (s : State) (r : Result) : (s.respond r).results = s.results ++ [r] := rfl
@[simp] theorem respond_script (s : State) (r : Result) : (s.respond r).script = s.script := rfl

/-- An emitted message advances the common order by one (R32). -/
@[simp] theorem emitMsg_nextPos (s : State) (m : Message) : (s.emitMsg m).nextPos = s.nextPos + 1 := by
  simp [State.nextPos]; omega

/-- An emitted diagnostic advances the common order by one (R32). -/
@[simp] theorem emitDiag_nextPos (s : State) (r : DiagReason) : (s.emitDiag r).nextPos = s.nextPos + 1 := by
  simp [State.nextPos]; omega

end Sys2Proof.Machine
end

