-- ==== Sys2Proof/Laws/Drain.lean ====
section
/-! SUPPORT. What one drain action can do (43_stream.md R121 to R128), that the drain ends (R129), and the induction
principle of the drain. -/

namespace Sys2Proof.Machine

theorem firstSync_none {b : List Byte} (h : firstSync b = none) : ∀ x ∈ b, x ≠ Params.sync := by
  induction b with
  | nil => simp
  | cons a b ih =>
    simp only [firstSync] at h
    split at h
    · cases h
    · rename_i ha
      simp only [Option.map_eq_none_iff] at h
      simpa [ha] using ih h

/-- `k` is the smallest offset of a sync byte (R125): a run of other bytes, then the sync byte. -/
theorem firstSync_some {b : List Byte} {k : Nat} (h : firstSync b = some k) :
    k < b.length ∧ (b.drop k).head? = some Params.sync ∧ ∀ x ∈ b.take k, x ≠ Params.sync := by
  induction b generalizing k with
  | nil => simp [firstSync] at h
  | cons a b ih =>
    simp only [firstSync] at h
    split at h
    · rename_i ha
      cases h
      simp [ha]
    · rename_i ha
      obtain ⟨j, hj, rfl⟩ := Option.map_eq_some_iff.1 h
      obtain ⟨h1, h2, h3⟩ := ih hj
      refine ⟨by simpa using h1, by simpa using h2, ?_⟩
      simpa [ha] using h3

theorem firstSync_zero {b : List Byte} : firstSync b = some 0 ↔ b.head? = some Params.sync := by
  cases b with
  | nil => simp [firstSync]
  | cons a b => by_cases ha : a = Params.sync <;> simp [firstSync, ha]

/-- Everything one action of the RX agent can do: at S1, S2 and S3 the actions of R121 to R128, each with its guard. -/
theorem drainStep_cases {s : State} (h : s.ctrl ≠ .q) :
    (s.ctrl = .s1 ∧ s.buf.length < 7 ∧ enabledAction s = .ok (some .s1WaitShort) ∧
      drainStep s = .next (s.setCtrl .q)) ∨
    (s.ctrl = .s1 ∧ 7 ≤ s.buf.length ∧ enabledAction s = .ok (some .s1Proceed) ∧
      drainStep s = .next (s.setCtrl .s2)) ∨
    (s.ctrl = .s2 ∧ firstSync s.buf = none ∧ enabledAction s = .ok (some .s2DiscardAll) ∧
      drainStep s = .next (s.bufClear.setCtrl .q)) ∨
    (s.ctrl = .s2 ∧ firstSync s.buf = some 0 ∧ enabledAction s = .ok (some .s2AtSync) ∧
      drainStep s = .next (s.setCtrl .s3)) ∨
    (∃ k, s.ctrl = .s2 ∧ firstSync s.buf = some (k + 1) ∧ enabledAction s = .ok (some .s2DiscardPrefix) ∧
      drainStep s = .next ((s.bufDrop (k + 1)).setCtrl .s1)) ∨
    (s.ctrl = .s3 ∧ tryDecode s.buf = .ok .incomplete ∧ enabledAction s = .ok (some .s3WaitIncomplete) ∧
      drainStep s = .next (s.setCtrl .q)) ∨
    (∃ r, s.ctrl = .s3 ∧ tryDecode s.buf = .ok (.invalid r) ∧ enabledAction s = .ok (some .s3DropFalseSync) ∧
      drainStep s = .next (((s.emitDiag .frameInvalidBadCrc).bufDrop 1).setCtrl .s2)) ∨
    (∃ m n, s.ctrl = .s3 ∧ tryDecode s.buf = .ok (.decoded m n) ∧ enabledAction s = .ok (some .s3Emit) ∧
      drainStep s = .next (((s.emitMsg m).bufDrop n).setCtrl .s1)) := by
  rcases hc : s.ctrl
  · by_cases hl : s.buf.length < 7
    · exact .inl (by simp [drainStep, enabledAction, takeAction, execS1WaitShort, hc, hl, Params.minFrame])
    · exact .inr (.inl (by
        simp [drainStep, enabledAction, takeAction, execS1Proceed, hc, hl, Params.minFrame, Nat.not_lt.1 hl]))
  · rcases hf : firstSync s.buf with _ | _ | k
    · exact .inr (.inr (.inl (by simp [drainStep, enabledAction, takeAction, execS2DiscardAll, hc, hf])))
    · exact .inr (.inr (.inr (.inl (by simp [drainStep, enabledAction, takeAction, execS2AtSync, hc, hf]))))
    · exact .inr (.inr (.inr (.inr (.inl ⟨k, by
        simp [drainStep, enabledAction, takeAction, execS2DiscardPrefix, hc, hf]⟩))))
  · have ht : ∃ o, tryDecode s.buf = .ok o := by
      rcases tryDecode_cases s.buf with ⟨_, e⟩ | ⟨_, _, e⟩ | ⟨_, _, _, e⟩ | ⟨_, _, _, e⟩ | ⟨_, _, _, e⟩ <;> exact ⟨_, e⟩
    obtain ⟨o, ht⟩ := ht
    rcases o with ⟨m, n⟩ | _ | r
    · exact .inr (.inr (.inr (.inr (.inr (.inr (.inr ⟨m, n, by
        simp [drainStep, enabledAction, takeAction, execS3Emit, hc, ht]⟩))))))
    · exact .inr (.inr (.inr (.inr (.inr (.inl (by
        simp [drainStep, enabledAction, takeAction, execS3WaitIncomplete, hc, ht]))))))
    · exact .inr (.inr (.inr (.inr (.inr (.inr (.inl ⟨r, by
        simp [drainStep, enabledAction, takeAction, execS3DropFalseSync, hc, ht]⟩))))))
  · exact absurd hc h

/-- `rank` of R129. -/
def ctrlRank : Ctrl → Nat
  | .s1 => 2
  | .s2 => 1
  | .s3 => 0
  | .q => 0

/-- The measure of R129. -/
def drainMeasure (s : State) : Nat := 3 * s.buf.length + ctrlRank s.ctrl

/-- One action ends the drain or lowers the measure (R129). -/
theorem drainStep_measure {s : State} (h : s.ctrl ≠ .q) :
    ∃ t, drainStep s = .next t ∧ (t.ctrl = .q ∨ (t.ctrl ≠ .q ∧ drainMeasure t < drainMeasure s)) := by
  rcases drainStep_cases h with ⟨_, _, _, e⟩ | ⟨c, _, _, e⟩ | ⟨_, _, _, e⟩ | ⟨c, _, _, e⟩ | ⟨k, c, f, _, e⟩ |
    ⟨_, _, _, e⟩ | ⟨r, c, f, _, e⟩ | ⟨m, n, c, f, _, e⟩ <;> refine ⟨_, e, ?_⟩
  · exact .inl rfl
  · exact .inr ⟨by simp, by simp [drainMeasure, ctrlRank, c]⟩
  · exact .inl rfl
  · exact .inr ⟨by simp, by simp [drainMeasure, ctrlRank, c]⟩
  · have := (firstSync_some f).1
    refine .inr ⟨by simp, ?_⟩
    simp [drainMeasure, ctrlRank, c]; omega
  · exact .inl rfl
  · have hl : 1 ≤ s.buf.length := by
      rcases tryDecode_cases s.buf with ⟨_, g⟩ | ⟨hl, _⟩ | ⟨hl, _⟩ | ⟨hl, _⟩ | ⟨hl, _⟩
      · rw [g] at f; cases f
      all_goals omega
    refine .inr ⟨by simp, ?_⟩
    simp [drainMeasure, ctrlRank, c]; omega
  · obtain ⟨_, hn, hl, _⟩ := tryDecode_decoded f
    refine .inr ⟨by simp, ?_⟩
    simp [drainMeasure, ctrlRank, c]; omega

/-- With one action more than the measure the drain ends at Q (R129). -/
theorem drain_next {fuel : Nat} {s : State} (h : s.ctrl = .q ∨ drainMeasure s < fuel) :
    ∃ t, drain fuel s = .next t ∧ t.ctrl = .q := by
  induction fuel generalizing s with
  | zero =>
    rcases h with h | h
    · exact ⟨s, by simp [drain, h], h⟩
    · omega
  | succ fuel ih =>
    by_cases hq : s.ctrl = .q
    · exact ⟨s, by simp [drain, hq], hq⟩
    · obtain ⟨t, ht, hm⟩ := drainStep_measure hq
      have hlt : drainMeasure s < fuel + 1 := h.resolve_left hq
      obtain ⟨u, hu, hc⟩ := ih (s := t) (hm.imp id fun ⟨_, m⟩ => by omega)
      exact ⟨u, by simp [drain, hq, ht, hu], hc⟩

/-- The drain of a FEED ends at Q within the bound of R129. -/
theorem drain_bound_next (s : State) : ∃ t, drain (drainBound s) s = .next t ∧ t.ctrl = .q := by
  apply drain_next
  by_cases h : s.ctrl = .q
  · exact .inl h
  · right
    unfold drainBound drainMeasure
    cases s.ctrl <;> simp [ctrlRank]

/-- What every action keeps, the drain keeps. -/
theorem drain_induction {P : State → Prop} (step : ∀ s t, s.ctrl ≠ .q → drainStep s = .next t → P s → P t)
    {fuel : Nat} {s t : State} (h : drain fuel s = .next t) (hs : P s) : P t ∧ t.ctrl = .q := by
  induction fuel generalizing s with
  | zero =>
    simp only [drain] at h
    split at h
    · cases h; exact ⟨hs, ‹_›⟩
    · cases h
  | succ fuel ih =>
    simp only [drain] at h
    split at h
    · cases h; exact ⟨hs, ‹_›⟩
    · rename_i hq
      split at h
      · exact ih h (step _ _ hq ‹_› hs)
      · cases h
      · cases h

/-- More actions than needed change nothing. -/
theorem drain_mono {fuel : Nat} {s t : State} (h : drain fuel s = .next t) (k : Nat) :
    drain (fuel + k) s = .next t := by
  induction fuel generalizing s with
  | zero =>
    simp only [drain] at h
    split at h
    · cases h
      cases k <;> simp [drain, *]
    · cases h
  | succ fuel ih =>
    rw [Nat.add_right_comm]
    simp only [drain] at h ⊢
    split at h
    · rename_i hq
      simpa [hq] using h
    · rename_i hq
      split at h
      · rename_i u hu
        simpa [hq, hu] using ih h
      · cases h
      · cases h

end Sys2Proof.Machine
end

