-- ==== Sys2Proof/Laws/PerInstr.lean ====
section
/-! SUPPORT. Statements made per instruction: the first byte of an instruction's bytes is its row's match value in
spec/opcode_table.json. -/

namespace Sys2Proof.Laws.RowByte

/-- The match value of the row (R69 for selectors, R66 for type fields, R60 for the frame's sync byte). -/
def rowByte : Instr → Byte
  | .reset => 0x00
  | .feed _ => 0x01
  | .encode _ _ _ => 0x02
  | .tryDecode _ => 0x03
  | .crc16 _ => 0x04
  | .s1WaitShort => 0x80
  | .s1Proceed => 0x81
  | .s2DiscardAll => 0x82
  | .s2AtSync => 0x83
  | .s2DiscardPrefix => 0x84
  | .s3WaitIncomplete => 0x85
  | .s3DropFalseSync => 0x86
  | .s3Emit => 0x87
  | .typeCommand => 0x01
  | .typeResponse => 0x02
  | .typeEvent => 0x03
  | .typeAck => 0x04
  | .typeNak => 0x05
  | .typeData => 0x10
  | .typeOpaque value => value
  | .frame _ _ _ => 0xAA

/-- The bytes of an instruction begin with its row's match value. -/
def Statement (i : Instr) : Prop := (encode i).head? = some (rowByte i)

theorem reset : Statement .reset := rfl
theorem feed (chunk : List Byte) : Statement (.feed chunk) := rfl
theorem encode (type seq : Int) (payload : List Byte) : Statement (.encode type seq payload) := rfl
theorem tryDecode (bytes : List Byte) : Statement (.tryDecode bytes) := rfl
theorem crc16 (data : List Byte) : Statement (.crc16 data) := rfl
theorem s1WaitShort : Statement .s1WaitShort := rfl
theorem s1Proceed : Statement .s1Proceed := rfl
theorem s2DiscardAll : Statement .s2DiscardAll := rfl
theorem s2AtSync : Statement .s2AtSync := rfl
theorem s2DiscardPrefix : Statement .s2DiscardPrefix := rfl
theorem s3WaitIncomplete : Statement .s3WaitIncomplete := rfl
theorem s3DropFalseSync : Statement .s3DropFalseSync := rfl
theorem s3Emit : Statement .s3Emit := rfl
theorem typeCommand : Statement .typeCommand := rfl
theorem typeResponse : Statement .typeResponse := rfl
theorem typeEvent : Statement .typeEvent := rfl
theorem typeAck : Statement .typeAck := rfl
theorem typeNak : Statement .typeNak := rfl
theorem typeData : Statement .typeData := rfl
theorem typeOpaque (value : Byte) : Statement (.typeOpaque value) := rfl
theorem frame (type seq : Byte) (payload : List Byte) : Statement (.frame type seq payload) := rfl

end Sys2Proof.Laws.RowByte
end

