-- ==== Sys2Proof/Laws/Stream.lean ====
section
/-! SUPPORT. What FEED, RESET and the byte-serial reception do (43_stream.md R130, R132). -/

namespace Sys2Proof.Machine

/-- An admitted FEED from Q drains to quiescence and returns OK (R130). -/
theorem execFeed_next {chunk : List Byte} {s : State} (hc : chunk.length ≤ Config.chunkMax) (hq : s.ctrl = .q) :
    ∃ u, drain (drainBound (beginFeed chunk s)) (beginFeed chunk s) = .next u ∧ u.ctrl = .q ∧
      execFeed chunk s = .next (u.respond .ok) := by
  obtain ⟨u, hu, hc'⟩ := drain_bound_next (beginFeed chunk s)
  exact ⟨u, hu, hc', by simp [execFeed, (chunkAdmitted_iff _).2 hc, hq, hu]⟩

/-- If FEED answers a next state, it was admitted, it found the RX side quiescent, and the state is the drain's end
with OK returned. -/
theorem execFeed_inv {chunk : List Byte} {s t : State} (h : execFeed chunk s = .next t) :
    chunk.length ≤ Config.chunkMax ∧ s.ctrl = .q ∧
      ∃ u, drain (drainBound (beginFeed chunk s)) (beginFeed chunk s) = .next u ∧ u.ctrl = .q ∧ t = u.respond .ok := by
  simp only [execFeed] at h
  split at h
  · cases h
  rename_i hc
  split at h
  · cases h
  rename_i hq
  have hc' : chunk.length ≤ Config.chunkMax := (chunkAdmitted_iff _).1 (by simpa using hc)
  obtain ⟨u, hu, hcu⟩ := drain_bound_next (beginFeed chunk s)
  rw [hu] at h
  cases h
  exact ⟨hc', not_not.1 hq, u, hu, hcu, rfl⟩

/-- A reception of bytes from Q ends at Q: one-byte FEEDs are always admitted (R7). -/
theorem receiveBytes_next (bs : List Byte) {s : State} (hq : s.ctrl = .q) :
    ∃ t, receiveBytes bs s = .next t ∧ t.ctrl = .q := by
  induction bs generalizing s with
  | nil => exact ⟨s, rfl, hq⟩
  | cons b bs ih =>
    obtain ⟨u, _, hu, e⟩ := execFeed_next (chunk := [b]) (s := s) one_le_chunkMax hq
    obtain ⟨t, ht, htq⟩ := ih (s := u.respond .ok) (by simpa using hu)
    exact ⟨t, by simp [receiveBytes, e, ht], htq⟩

/-- What every one-byte FEED keeps, the reception keeps. -/
theorem receiveBytes_induction {P : State → Prop} (step : ∀ b s t, execFeed [b] s = .next t → P s → P t)
    {bs : List Byte} {s t : State} (h : receiveBytes bs s = .next t) (hs : P s) : P t := by
  induction bs generalizing s with
  | nil => cases h; exact hs
  | cons b bs ih =>
    simp only [receiveBytes] at h
    split at h
    · exact ih h (step _ _ _ ‹_› hs)
    · cases h
    · cases h

/-- What every drain action, the append of a FEED and its OK keep, a FEED keeps. -/
theorem execFeed_induction {P : State → Prop}
    (append : ∀ chunk s, chunk.length ≤ Config.chunkMax → s.ctrl = .q → P s → P (beginFeed chunk s))
    (action : ∀ s t, s.ctrl ≠ .q → drainStep s = .next t → P s → P t)
    (ok : ∀ s, s.ctrl = .q → P s → P (s.respond .ok))
    {chunk : List Byte} {s t : State} (h : execFeed chunk s = .next t) (hs : P s) : P t := by
  obtain ⟨hc, hq, u, hu, hcu, rfl⟩ := execFeed_inv h
  exact ok _ hcu (drain_induction action hu (append _ _ hc hq hs)).1

end Sys2Proof.Machine
end

