-- ==== Sys2Proof/Laws/Step.lean ====
section
/-! SUPPORT. What one step can be: idle, a host command, or the RX agent's enabled action. -/

namespace Sys2Proof.Machine

/-- A drain action's row runs the action. -/
theorem exec_actionInstr (a : DrainAction) (s : State) : exec (actionInstr a) s = takeAction a s := by
  cases a <;> rfl

theorem enabledAction_q {s : State} (h : s.ctrl = .q) : enabledAction s = .ok none := by
  simp [enabledAction, h]

theorem fetch_q {s : State} (h : s.ctrl = .q) : fetch s = fetchCommand s := by
  simp [fetch, enabledAction_q h]

/-- Off Q a step is one drain action, and it answers a next state (R120). -/
theorem step_draining {s : State} (h : s.ctrl ≠ .q) :
    ∃ a t, enabledAction s = .ok (some a) ∧ step s = exec (actionInstr a) s ∧ step s = drainStep s ∧
      drainStep s = .next t := by
  have key : ∀ a, enabledAction s = .ok (some a) →
      step s = exec (actionInstr a) s ∧ step s = drainStep s := by
    intro a ha
    have e : step s = exec (actionInstr a) s := by simp [step, fetch, ha]
    exact ⟨e, by rw [e, exec_actionInstr]; simp [drainStep, ha]⟩
  rcases drainStep_cases h with ⟨_, _, a, e⟩ | ⟨_, _, a, e⟩ | ⟨_, _, a, e⟩ | ⟨_, _, a, e⟩ | ⟨_, _, _, a, e⟩ |
    ⟨_, _, a, e⟩ | ⟨_, _, _, a, e⟩ | ⟨_, _, _, _, a, e⟩ <;>
    exact ⟨_, _, a, (key _ a).1, (key _ a).2, e⟩

/-- Everything a step that answers a next state can be. -/
theorem step_cases {s t : State} (h : step s = .next t) :
    (s.ctrl ≠ .q ∧ drainStep s = .next t) ∨
    (s.ctrl = .q ∧ t = s) ∨
    (s.ctrl = .q ∧ ∃ i rest, decodeSelector s.script = .ok (i, rest) ∧ i.isHostCommand = true ∧
      exec i { s with script := rest } = .next t) := by
  by_cases hq : s.ctrl = .q
  · right
    simp only [step, fetch_q hq, fetchCommand] at h
    split at h
    · cases h
      exact .inl ⟨hq, rfl⟩
    · rename_i i u hf
      right
      split at hf
      · rename_i j rest hd
        split at hf
        · rename_i hh
          cases hf
          exact ⟨hq, _, _, hd, hh, h⟩
        · cases hf
      all_goals cases hf
    · cases h
    · cases h
  · left
    obtain ⟨_, _, _, _, e, _⟩ := step_draining hq
    exact ⟨hq, e ▸ h⟩

end Sys2Proof.Machine
end

