-- ==== Sys2Proof/Tests/Slice0.lean ====
section
/-! SUPPORT. The model's own tests: words written out from the spec's encodings, one-step effects with the values of
spec/95_test_vectors.md, the checks of WellFormed, and for each statement with hypotheses a witness that meets them. -/

namespace Sys2Proof.Tests

open Sys2Proof.Machine

/-- A state with this control state and buffer, otherwise as after reset. -/
def st (c : Ctrl) (b : List Byte) : State := { State.reset with ctrl := c, buf := b }

/-- The next state, if there is one. -/
def nextOf : Host.Outcome State Fault Refusal → Option State
  | .next s => some s
  | .fault _ => none
  | .refused _ => none

/-- The refusal, if there is one. -/
def refusalOf : Host.Outcome State Fault Refusal → Option Refusal
  | .next _ => none
  | .fault _ => none
  | .refused r => some r

/-- E1 of 95_test_vectors.md section 2.2. -/
def e1 : List Byte := [0xAA, 0x00, 0x00, 0x01, 0x05, 0x9B, 0x7E]

/-- E2 of 95_test_vectors.md section 2.2. -/
def e2 : List Byte := [0xAA, 0x02, 0x00, 0x02, 0x07, 0x68, 0x69, 0x34, 0x93]

/-! Words written out from R69 and R72 (95_test_vectors.md section 3), R66 and R60. -/

theorem test_decode_reset : decodeIn .selector [0x00] = .ok (.reset, []) := by decide
theorem test_decode_feed :
    decodeIn .selector [0x01, 0x01, 0x00, 0x00, 0x00, 0x9B, 0x01] = .ok (.feed [0x9B], [0x01]) := by decide
theorem test_decode_encode :
    decodeIn .selector [0x02, 0x04, 0x2A, 0x01, 0x00, 0x00, 0x00, 0xAA] = .ok (.encode 0x04 0x2A [0xAA], []) := by decide
theorem test_decode_tryDecode :
    decodeIn .selector [0x03, 0x02, 0x00, 0x00, 0x00, 0xAA, 0x01] = .ok (.tryDecode [0xAA, 0x01], []) := by decide
theorem test_decode_crc16 :
    decodeIn .selector [0x04, 0x03, 0x00, 0x00, 0x00, 0x04, 0x2A, 0xAA] = .ok (.crc16 [0x04, 0x2A, 0xAA], []) := by decide
theorem test_decode_s1WaitShort : decodeIn .selector [0x80] = .ok (.s1WaitShort, []) := by decide
theorem test_decode_s1Proceed : decodeIn .selector [0x81] = .ok (.s1Proceed, []) := by decide
theorem test_decode_s2DiscardAll : decodeIn .selector [0x82] = .ok (.s2DiscardAll, []) := by decide
theorem test_decode_s2AtSync : decodeIn .selector [0x83] = .ok (.s2AtSync, []) := by decide
theorem test_decode_s2DiscardPrefix : decodeIn .selector [0x84] = .ok (.s2DiscardPrefix, []) := by decide
theorem test_decode_s3WaitIncomplete : decodeIn .selector [0x85] = .ok (.s3WaitIncomplete, []) := by decide
theorem test_decode_s3DropFalseSync : decodeIn .selector [0x86] = .ok (.s3DropFalseSync, []) := by decide
theorem test_decode_s3Emit : decodeIn .selector [0x87] = .ok (.s3Emit, []) := by decide
theorem test_decode_typeCommand : decodeIn .typeField [0x01] = .ok (.typeCommand, []) := by decide
theorem test_decode_typeResponse : decodeIn .typeField [0x02] = .ok (.typeResponse, []) := by decide
theorem test_decode_typeEvent : decodeIn .typeField [0x03] = .ok (.typeEvent, []) := by decide
theorem test_decode_typeAck : decodeIn .typeField [0x04] = .ok (.typeAck, []) := by decide
theorem test_decode_typeNak : decodeIn .typeField [0x05] = .ok (.typeNak, []) := by decide
theorem test_decode_typeData : decodeIn .typeField [0x10] = .ok (.typeData, []) := by decide
theorem test_decode_typeOpaque : decodeIn .typeField [0x7E] = .ok (.typeOpaque 0x7E, []) := by decide
theorem test_decode_frame :
    decodeIn .wire [0xAA, 0x01, 0x00, 0x04, 0x2A, 0xAA, 0xD1, 0xED] = .ok (.frame 0x04 0x2A [0xAA], []) := by decide +kernel
theorem test_decode_frame_swapped_crc :
    decodeIn .wire [0xAA, 0x00, 0x00, 0x01, 0x05, 0x7E, 0x9B] = .error (.invalidFrame .badCrc) := by decide +kernel
theorem test_decode_unassigned : decodeIn .selector [0x05] = .error (.unassignedSelector 0x05) := by decide
theorem test_decode_truncated : decodeIn .selector [0x01, 0x02, 0x00, 0x00, 0x00, 0xAA] = .error .truncatedOperand := by
  decide

/-! WellFormed refuses an ill-formed term for each check. -/

theorem test_illFormed_feed : (Instr.feed (List.replicate (Config.chunkMax + 1) 0)).wellFormed = false := by
  simp [Instr.wellFormed]
theorem test_illFormed_encode_type : (Instr.encode 256 0 []).wellFormed = false := by decide
theorem test_illFormed_encode_type_negative : (Instr.encode (-1) 0 []).wellFormed = false := by decide
theorem test_illFormed_encode_seq : (Instr.encode 0 256 []).wellFormed = false := by decide
theorem test_illFormed_encode_seq_negative : (Instr.encode 0 (-1) []).wellFormed = false := by decide
theorem test_illFormed_typeOpaque : (Instr.typeOpaque 0x05).wellFormed = false := by decide
theorem test_illFormed_frame : (Instr.frame 0 0 (List.replicate 65536 0)).wellFormed = false := by
  simp only [Instr.wellFormed, List.length_replicate]; decide
theorem test_unscriptable_crc16 : (Instr.crc16 (List.replicate 4294967296 0)).scriptable = false := by
  simp only [Instr.scriptable, List.length_replicate]; decide

/-! One step of each instruction, with the spec's values. -/

/-- R132's example. -/
theorem test_reset : (nextOf (exec .reset (st .q [0xAA, 0x05, 0x00, 0x01]))).map (·.buf) = some [] := by decide
/-- 95 section 1.6: the last byte of E1 completes it. -/
theorem test_feed_last_byte :
    (nextOf (exec (.feed [0x7E]) (st .q [0xAA, 0x00, 0x00, 0x01, 0x05, 0x9B]))).map (fun t => (t.buf, t.msgLog))
      = some ([], [{ pos := 0, msg := { type := 0x01, seq := 0x05, payload := [] } }]) := by decide +kernel
/-- 95 section 2.6: the seventh byte of noise discards all. -/
theorem test_feed_noise :
    (nextOf (exec (.feed [0x11]) (st .q [0x11, 0x11, 0x11, 0x11, 0x11, 0x11]))).map (·.buf) = some [] := by decide
/-- 95 section 2.2, E2. -/
theorem test_encode : (nextOf (exec (.encode 0x02 0x07 [0x68, 0x69]) State.reset)).map (·.results) = some [.frame e2] := by
  decide +kernel
/-- 95 section 2.2, E10. -/
theorem test_encode_refused : refusalOf (exec (.encode 0x100 0x00 []) State.reset) = some .operandOutOfRange := by decide
/-- 95 section 2.3, D2: short beats bad sync. -/
theorem test_tryDecode_short :
    (nextOf (exec (.tryDecode [0x11, 0x22, 0x33]) State.reset)).map (·.results) = some [.outcome .incomplete] := by decide
/-- 95 section 2.3, D15. -/
theorem test_tryDecode_collision :
    (nextOf (exec (.tryDecode [0xAA, 0x03, 0x00, 0xC4, 0x0F, 0xAA, 0x00, 0x00, 0x01, 0x05, 0x9B, 0x7E]) State.reset)).map
      (·.results) = some [.outcome (.decoded { type := 0xC4, seq := 0x0F, payload := [0xAA, 0x00, 0x00] } 10)] := by
  decide +kernel
/-- 95 section 2.1, C8. -/
theorem test_crc16_check :
    (nextOf (exec (.crc16 [0x31, 0x32, 0x33, 0x34, 0x35, 0x36, 0x37, 0x38, 0x39]) State.reset)).map (·.results)
      = some [.crc 0x29B1] := by decide +kernel
/-- 95 section 2.1, C1. -/
theorem test_crc16_empty : (nextOf (exec (.crc16 []) State.reset)).map (·.results) = some [.crc 0xFFFF] := by decide
/-- 95 section 2.5, T6. -/
theorem test_s1WaitShort :
    (nextOf (step (st .s1 [0xAA, 0x02, 0x00, 0x02, 0x07, 0x68]))).map (fun t => (t.ctrl, t.buf.length)) = some (.q, 6) := by
  decide
/-- 95 section 2.5, T1. -/
theorem test_s1Proceed : (nextOf (step (st .s1 e1))).map (·.ctrl) = some .s2 := by decide
/-- 95 section 2.5, T3. -/
theorem test_s2DiscardAll :
    (nextOf (step (st .s2 [0x11, 0x22, 0x33, 0x44, 0x55, 0x66, 0x77]))).map (fun t => (t.ctrl, t.buf)) = some (.q, []) := by
  decide
/-- R124's example. -/
theorem test_s2AtSync : (nextOf (step (st .s2 e1))).map (·.ctrl) = some .s3 := by decide
/-- R125's example. -/
theorem test_s2DiscardPrefix :
    (nextOf (step (st .s2 ([0x00, 0xFF] ++ e1)))).map (fun t => (t.ctrl, t.buf)) = some (.s1, e1) := by decide
/-- R126's example. -/
theorem test_s3WaitIncomplete :
    (nextOf (step (st .s3 [0xAA, 0x05, 0x00, 0x01, 0x02, 0x03, 0x04]))).map (·.ctrl) = some .q := by decide
/-- 95 section 2.5, T5: the sync byte alone is dropped. -/
theorem test_s3DropFalseSync :
    (nextOf (step (st .s3 ([0xAA, 0x00, 0x00, 0x01, 0x05, 0x00, 0x00] ++ e1)))).map
      (fun t => (t.ctrl, t.buf, t.diagLog.length)) = some (.s2, [0x00, 0x00, 0x01, 0x05, 0x00, 0x00] ++ e1, 1) := by decide +kernel
/-- R128's example. -/
theorem test_s3Emit :
    (nextOf (step (st .s3 (e1 ++ [0x11])))).map (fun t => (t.ctrl, t.buf, t.msgLog.map (·.msg)))
      = some (.s1, [0x11], [{ type := 0x01, seq := 0x05, payload := [] }]) := by decide +kernel
/-- A drain action whose guard does not hold is not taken (R120). -/
theorem test_s3Emit_not_enabled : refusalOf (exec .s3Emit (st .s2 e1)) = some .actionNotEnabled := by decide
/-- R66: an unnamed code is not rejected. -/
theorem test_typeOpaque :
    (nextOf (exec (.typeOpaque 0x7E) (st .q [0xAA, 0x03, 0x00]))).map (·.buf) = some [0xAA, 0x03, 0x00, 0x7E] := by decide
theorem test_typeNak :
    (nextOf (exec .typeNak (st .q [0xAA, 0x00, 0x00]))).map (·.buf) = some [0xAA, 0x00, 0x00, 0x05] := by decide
/-- 95 section 3, P1: the frame E1 one byte at a time. -/
theorem test_frame :
    (nextOf (exec (.frame 0x01 0x05 []) State.reset)).map (fun t => (t.buf, t.msgLog.map (·.msg)))
      = some ([], [{ type := 0x01, seq := 0x05, payload := [] }]) := by decide +kernel

/-! The command port and the table's words. -/

/-- A drain selector issued by the host is refused (R69). -/
theorem test_port_internal : refusalOf (step { State.reset with script := [0x87] }) = some .internalSelector := by decide
/-- An ENCODE that ends inside its operands is refused (R70). -/
theorem test_port_malformed : refusalOf (step { State.reset with script := [0x02, 0x01] }) = some .malformedOperands := by
  decide
/-- The second command of program P1 (95 section 3), and what follows it stays pending. -/
theorem test_port_encode :
    (nextOf (step { State.reset with script := [0x02, 0x01, 0x05, 0x00, 0x00, 0x00, 0x00, 0x01] })).map
      (fun t => (t.results, t.script)) = some ([.frame e1], [0x01]) := by decide +kernel
/-- The table's word 0x86 after reset. -/
theorem test_word_s3DropFalseSync :
    decodeTableWord 8 0x86 = some .s3DropFalseSync ∧
      (nextOf (step (State.reset.withFetchWord 8 0x86))).map (·.diagLog.length) = some 1 := by decide +kernel
/-- The table's word 0x02 after reset: ENCODE with operands of zeros (95 section 2.2, E7). -/
theorem test_word_encode :
    decodeTableWord 8 0x02 = some (.encode 0 0 []) ∧
      (nextOf (step (State.reset.withFetchWord 8 0x02))).map (·.results)
        = some [.frame [0xAA, 0x00, 0x00, 0x00, 0x00, 0x0F, 0x1D]] := by decide +kernel
/-- The table's word 0x10, a type field. -/
theorem test_word_typeData :
    decodeTableWord 8 0x10 = some .typeData ∧
      (nextOf (step (State.reset.withFetchWord 8 0x10))).map (·.buf) = some [0x10] := by decide

/-! Witnesses: for each statement with hypotheses, a state and operands that meet them. -/

/-- One-byte chunks of these bytes, which every CHUNK_MAX admits. -/
def singles (bs : List Byte) : List (List Byte) := bs.map fun b => [b]

theorem singles_admitted (bs : List Byte) : ∀ c ∈ singles bs, c.length ≤ Config.chunkMax := by
  intro c hc
  obtain ⟨b, _, rfl⟩ := List.mem_map.1 hc
  exact one_le_chunkMax

theorem witness_ResetDropsThePartialBuffer : (st .q [0xAA, 0x05, 0x00, 0x01]).ctrl = .q := rfl

theorem witness_FeedAndResetRefusedWhileDraining :
    [(0xAA : Byte)].length ≤ Config.chunkMax ∧ (st .s2 e1).ctrl ≠ .q := ⟨one_le_chunkMax, by decide⟩

theorem witness_FeedAppendsAndDrainsToQuiescence :
    [(0x7E : Byte)].length ≤ Config.chunkMax ∧ (st .q [0xAA]).ctrl = .q := ⟨one_le_chunkMax, rfl⟩

theorem witness_DrainEndsWithinTheBound : (st .s1 e1).ctrl ≠ .q := by decide

theorem witness_PortChecksOperands_chunk :
    Config.chunkMax < (List.replicate (Config.chunkMax + 1) (0 : Byte)).length := by simp

/-- The operands that meet where the clauses of R70 meet: -1 and 256 refused, 0 and 255 admitted, payload 65536. -/
theorem witness_PortChecksOperands_encode :
    ((-1 : Int) < 0 ∧ (255 : Int) < 256) ∧ ((0 : Int) ≤ 0 ∧ (255 : Int) ≤ 255) ∧
      65535 < (List.replicate 65536 (0 : Byte)).length ∧ ¬65535 < (List.replicate 65535 (0 : Byte)).length := by
  simp only [List.length_replicate]; decide

theorem witness_PortChecksOperands_quiescent :
    (st .q []).ctrl = .q ∧ ([] : List Byte).length ≤ Config.chunkMax := ⟨rfl, Nat.zero_le _⟩

theorem witness_S1WaitShortKeepsTheBuffer :
    (st .s1 (e1.take 6)).ctrl = .s1 ∧ (st .s1 (e1.take 6)).buf.length < 7 := by decide

theorem witness_S1ProceedGoesToS2 : (st .s1 e1).ctrl = .s1 ∧ 7 ≤ (st .s1 e1).buf.length := by decide

theorem witness_S2DiscardAllClearsTheBuffer :
    (st .s2 [0x11]).ctrl = .s2 ∧ ∀ i < (st .s2 [0x11]).buf.length, (st .s2 [0x11]).buf[i]? ≠ some 0xAA := by decide

theorem witness_S2DiscardAllClearsTheBuffer_empty :
    (st .s2 []).ctrl = .s2 ∧ ∀ i < (st .s2 []).buf.length, (st .s2 []).buf[i]? ≠ some 0xAA := by decide

theorem witness_S2AtSyncGoesToS3 :
    (st .s2 [0xAA]).ctrl = .s2 ∧ 1 ≤ (st .s2 [0xAA]).buf.length ∧ (st .s2 [0xAA]).buf[0]? = some 0xAA := by decide

theorem witness_S2DiscardPrefixDropsTheNoise :
    (st .s2 [0x00, 0xAA]).ctrl = .s2 ∧ (st .s2 [0x00, 0xAA]).buf[1]? = some 0xAA ∧
      ∀ i < 1, (st .s2 [0x00, 0xAA]).buf[i]? ≠ some 0xAA := by decide

theorem witness_S3WaitIncompleteKeepsTheBuffer :
    (st .s3 [0xAA]).ctrl = .s3 ∧ tryDecode (st .s3 [0xAA]).buf = .ok .incomplete := by decide

theorem witness_S3DropFalseSyncDropsOneByte :
    (st .s3 [0xAA, 0x00, 0x00, 0x01, 0x05, 0x00, 0x00]).ctrl = .s3 ∧
      tryDecode [0xAA, 0x00, 0x00, 0x01, 0x05, 0x00, 0x00] = .ok (.invalid .badCrc) := by decide +kernel

theorem witness_S3EmitDeliversTheMessage :
    (st .s3 e1).ctrl = .s3 ∧
      tryDecode (st .s3 e1).buf = .ok (.decoded { type := 0x01, seq := 0x05, payload := [] } 7) := by decide +kernel

theorem witness_ExactlyOneDrainActionIsEnabled : (st .s3 e1).ctrl ≠ .q ∧ (st .q []).ctrl = .q := by decide

theorem witness_StepTakesTheEnabledAction : (st .s2 e1).ctrl ≠ .q := by decide

theorem witness_StepRunsTheDecodedCommand :
    decodeIn .selector (State.reset.withFetchWord 8 0x00).script = .ok (.reset, []) ∧
      (State.reset.withFetchWord 8 0x00).ctrl = .q ∧ Instr.reset.isHostCommand = true := by decide

theorem witness_StepIdlesWithoutACommand : State.reset.ctrl = .q ∧ State.reset.script = [] := by decide

/-- The selectors at the ends of the ranges of R69. -/
theorem witness_CommandPortSelectors :
    let atPort (b : Byte) : State := { State.reset with script := [b] }
    (∀ b ∈ [(0x05 : Byte), 0x7F, 0x88, 0xFF], (atPort b).ctrl = .q ∧ (atPort b).script = [b] ∧
      ((0x05 ≤ b.toNat ∧ b.toNat ≤ 0x7F) ∨ 0x88 ≤ b.toNat)) ∧
    ∀ b ∈ [(0x80 : Byte), 0x87], (atPort b).ctrl = .q ∧ (atPort b).script = [b] ∧ 0x80 ≤ b.toNat ∧ b.toNat ≤ 0x87 := by
  decide

/-- A well-formed instruction of each space, with operands at the ends of their ranges. -/
theorem witness_DecodeReadsBackEncode :
    (Instr.encode 0 255 [0xAA]).wellFormed = true ∧ (Instr.encode 0 255 [0xAA]).scriptable = true ∧
    (Instr.feed [0xAA]).wellFormed = true ∧ (Instr.feed [0xAA]).scriptable = true ∧
    (Instr.typeOpaque 0x06).wellFormed = true ∧ (Instr.typeOpaque 0x06).scriptable = true ∧
    (Instr.frame 0xAA 0xFF []).wellFormed = true ∧ (Instr.frame 0xAA 0xFF []).scriptable = true :=
  ⟨by decide, by decide, decide_eq_true one_le_chunkMax, by decide, by decide, by decide, by decide, by decide⟩

theorem witness_EncodeThenTryDecodeRoundTrips : ([] : List Byte).length ≤ 65535 := by decide

theorem witness_OutcomesAreStableUnderExtension :
    tryDecode e1 = .ok (.decoded { type := 0x01, seq := 0x05, payload := [] } 7) ∧
      tryDecode [0xAA, 0x05, 0x00, 0x01, 0x02, 0x03, 0x04] = .ok .incomplete := by decide +kernel

/-- Bits at the ends of the ranges of R112, for an empty payload and for one of one byte (a length bit that is 1). -/
theorem witness_SingleBitErrorsAreFoundOut :
    (∀ i ∈ [0, 7, 8, 23, 24, 55], i < 8 * (7 + ([] : List Byte).length)) ∧
    (∀ i ∈ [8, 23], ([] : List Byte).length.testBit (i - 8) = false) ∧
    [(0x68 : Byte)].length.testBit (8 - 8) = true ∧ 24 < 8 * (7 + [(0x68 : Byte)].length) := by decide

theorem reset_rxInv : RxInv State.reset := ⟨fun _ => .inl (by decide), fun h => by cases h⟩

theorem witness_StepKeepsTheRxInvariant :
    RxInv State.reset ∧ (∃ t, exec .reset State.reset = .next t) ∧ ∃ t, step State.reset = .next t :=
  ⟨reset_rxInv, ⟨_, rfl⟩, ⟨_, rfl⟩⟩

theorem witness_StepKeepsTheBufferBound :
    RxInv State.reset ∧ BufBounded State.reset ∧ (∃ t, exec .reset State.reset = .next t) ∧
      (∃ t, step State.reset = .next t) ∧ State.reset.ctrl = .q ∧ [(0xAA : Byte)].length ≤ Config.chunkMax :=
  ⟨reset_rxInv, ⟨Nat.zero_le _, fun _ => Nat.zero_le _⟩, ⟨_, rfl⟩, ⟨_, rfl⟩, rfl, one_le_chunkMax⟩

theorem witness_StepKeepsTheLogsInOrder :
    LogsInOrder State.reset ∧ (∃ t, exec .reset State.reset = .next t) ∧ ∃ t, step State.reset = .next t :=
  ⟨⟨.nil, .nil, .refl _⟩, ⟨_, rfl⟩, ⟨_, rfl⟩⟩

theorem witness_StepKeepsPayloadsInSixteenBits :
    PayloadsFit State.reset ∧ (∃ t, exec .reset State.reset = .next t) ∧ ∃ t, step State.reset = .next t :=
  ⟨by simp [PayloadsFit, State.reset], ⟨_, rfl⟩, ⟨_, rfl⟩⟩

theorem exists_next {o : Host.Outcome State Fault Refusal} (h : (nextOf o).isSome = true) : ∃ t, o = .next t := by
  cases o with
  | next t => exact ⟨t, rfl⟩
  | fault _ => cases h
  | refused _ => cases h

theorem witness_LogsOnlyGrow : ∃ t, exec .s3Emit (st .s3 e1) = .next t := exists_next (by decide +kernel)

theorem witness_AccessMatrix :
    (∃ t, exec (.encode 1 5 []) State.reset = .next t) ∧ (∃ t, exec .reset State.reset = .next t) ∧
      (∃ t, exec (actionInstr .s1Proceed) (st .s1 e1) = .next t) ∧
      ∃ t, exec (actionInstr .s3DropFalseSync) (st .s3 [0xAA, 0x00, 0x00, 0x01, 0x05, 0x00, 0x00]) = .next t :=
  ⟨exists_next (by decide +kernel), exists_next (by decide +kernel), exists_next (by decide +kernel),
    exists_next (by decide +kernel)⟩

theorem witness_DrainActionsOnlyDropFromTheFront : ∃ t, exec (actionInstr .s3Emit) (st .s3 e1) = .next t :=
  exists_next (by decide +kernel)

/-- The quiescent states at the ends of R133: six bytes, and a candidate one byte short. -/
theorem witness_EmptyFeedChangesNothing :
    (RxInv (st .q (e1.take 6)) ∧ (st .q (e1.take 6)).ctrl = .q) ∧ RxInv (st .q (e2.take 8)) ∧
      (st .q (e2.take 8)).ctrl = .q :=
  ⟨⟨⟨fun _ => .inl (by decide), fun h => by cases h⟩, rfl⟩, ⟨fun _ => .inr (by decide), fun h => by cases h⟩, rfl⟩

theorem witness_FeedHoldsAnIncompleteCandidate :
    (st .q (e2.take 7)).ctrl = .q ∧ [(0x34 : Byte)].length ≤ Config.chunkMax ∧
      ((st .q (e2.take 7)).buf ++ [0x34]).head? = some 0xAA ∧ 7 ≤ ((st .q (e2.take 7)).buf ++ [0x34]).length ∧
      ((st .q (e2.take 7)).buf ++ [0x34]).length < 7 + declaredLength ((st .q (e2.take 7)).buf ++ [0x34]) :=
  ⟨rfl, one_le_chunkMax, by decide, by decide, by decide⟩

theorem witness_ChunkingDoesNotChangeTheRecords :
    RxInv State.reset ∧ State.reset.ctrl = .q ∧ (∀ c ∈ singles e1, c.length ≤ Config.chunkMax) ∧
      (∀ c ∈ [] :: singles e1, c.length ≤ Config.chunkMax) ∧ (singles e1).flatten = ([] :: singles e1).flatten :=
  ⟨reset_rxInv, rfl, singles_admitted _, fun c hc => by
    rcases List.mem_cons.1 hc with rfl | hc
    · exact Nat.zero_le _
    · exact singles_admitted _ c hc, by simp⟩

theorem witness_FramesInNoiseAreAllEmitted :
    let m : Message := { type := 0x01, seq := 0x05, payload := [] }
    let parts : List (List Byte × Message) := [([0x11], m), ([], m)]
    (∀ c ∈ singles ([0x11] ++ e1 ++ e1 ++ [0x22]), c.length ≤ Config.chunkMax) ∧
      (∀ x ∈ parts, (0xAA : Byte) ∉ x.1 ∧ x.2.payload.length ≤ 65535) ∧ (0xAA : Byte) ∉ [(0x22 : Byte)] ∧
      (singles ([0x11] ++ e1 ++ e1 ++ [0x22])).flatten
        = parts.flatMap (fun x => x.1 ++ frameBytes x.2.type x.2.seq x.2.payload) ++ [0x22] ∧
      State.reset.ctrl = .q ∧ State.reset.buf = [] :=
  ⟨singles_admitted _, by decide, by decide, by decide +kernel, rfl, rfl⟩

/-- Trace T5 of 95_test_vectors.md section 2.5. -/
theorem witness_FalseSyncIsRecovered :
    let m : Message := { type := 0x01, seq := 0x05, payload := [] }
    let c : List Byte := [0x00, 0x00, 0x01, 0x05, 0x00, 0x00]
    m.payload.length ≤ 65535 ∧ tryDecode (0xAA :: c) = .ok (.invalid .badCrc) ∧ (0xAA : Byte) ∉ c ∧
      (∀ x ∈ singles ((0xAA :: c) ++ e1), x.length ≤ Config.chunkMax) ∧
      (singles ((0xAA :: c) ++ e1)).flatten = (0xAA :: c) ++ frameBytes m.type m.seq m.payload ∧
      State.reset.ctrl = .q ∧ State.reset.buf = [] :=
  ⟨by decide, by decide +kernel, by decide, singles_admitted _, by decide +kernel, rfl, rfl⟩

theorem witness_FrameReceptionEmitsItsMessage :
    65535 < (List.replicate 65536 (0 : Byte)).length ∧ (List.replicate 65535 (0 : Byte)).length ≤ 65535 ∧
      State.reset.ctrl = .q ∧ State.reset.buf = [] := by
  simp only [List.length_replicate]; decide

theorem witness_TypeFieldIsHeldUnchanged :
    (st .q [0xAA, 0x00, 0x00]).ctrl = .q ∧ (st .q [0xAA, 0x00, 0x00]).buf = [0xAA, 0x00, 0x00] := by decide

theorem witness_WireRowsCompleteAtQuiescence :
    (instrSpace .typeCommand ≠ .selector ∧ Instr.typeCommand.wellFormed = true) ∧
      (instrSpace (.frame 0 0 []) ≠ .selector ∧ (Instr.frame 0 0 []).wellFormed = true) ∧ State.reset.ctrl = .q := by
  decide

theorem witness_QueriesDoNotSeeTheState :
    (Instr.encode 255 0 []).wellFormed = true ∧ (∃ t q p, Instr.encode 255 0 [] = .encode t q p) :=
  ⟨by decide, _, _, _, rfl⟩

theorem witness_RxSideDoesNotSeeResultsOrScript : ∃ t, exec .s3Emit (st .s3 e1) = .next t :=
  exists_next (by decide +kernel)

end Sys2Proof.Tests
end

section
/-! PROOFS. The command port (30_encoding.md R69, R70): what the operand checks answer, and what each range of
selectors makes of a step at Q. -/

namespace Sys2Proof.Machine

/-! The operand checks of R70, one lemma per command and outcome. -/

/-- R70: the length check of FEED comes before the check of `at`. -/
theorem execFeed_chunkTooLong {chunk : List Byte} (h : Config.chunkMax < chunk.length) (s : State) :
    execFeed chunk s = .refused .chunkTooLong := by
  have hc : ¬ chunkAdmitted chunk = true := fun hc => absurd ((chunkAdmitted_iff chunk).1 hc) (Nat.not_le.2 h)
  simp [execFeed, hc]

theorem execReset_q {s : State} (hq : s.ctrl = .q) :
    execReset s = .next ((s.bufClear.setCtrl .q).respond .ok) := by
  simp [execReset, hq]

theorem execEncode_operandOutOfRange {t q : Int} (h : ¬ (0 ≤ t ∧ t ≤ 255) ∨ ¬ (0 ≤ q ∧ q ≤ 255))
    (p : List Byte) (s : State) : execEncode t q p s = .refused .operandOutOfRange := by
  rw [← byteAdmitted_iff, ← byteAdmitted_iff] at h
  rcases h with ht | hq
  · simp [execEncode, ht]
  · simp [execEncode, hq]

section Admitted

variable {t q : Int} (ht : 0 ≤ t ∧ t ≤ 255) (hq : 0 ≤ q ∧ q ≤ 255)
include ht hq

/-- R91: the payload's length is ENCODE's own check, answered by its error. -/
theorem execEncode_payloadTooLarge {p : List Byte} (hp : 65535 < p.length) (s : State) :
    execEncode t q p s = .next (s.respond (.error .payloadTooLarge)) := by
  have hp' : p.length > Params.maxPayload := hp
  simp [execEncode, encodeMessage, (byteAdmitted_iff t).2 ht, (byteAdmitted_iff q).2 hq, hp']

/-- R90: ENCODE of admitted operands and a payload that fits returns the frame. -/
theorem execEncode_frame {p : List Byte} (hp : p.length ≤ 65535) (s : State) :
    execEncode t q p s = .next (s.respond (.frame (frameBytes (byteOf t) (byteOf q) p))) := by
  have hp' : ¬ p.length > Params.maxPayload := Nat.not_lt.2 hp
  simp [execEncode, encodeMessage, (byteAdmitted_iff t).2 ht, (byteAdmitted_iff q).2 hq, hp']

theorem execEncode_next (p : List Byte) (s : State) : ∃ u, execEncode t q p s = .next u := by
  by_cases hp : p.length ≤ 65535
  · exact ⟨_, execEncode_frame ht hq hp s⟩
  · exact ⟨_, execEncode_payloadTooLarge ht hq (Nat.not_le.1 hp) s⟩

end Admitted

/-- No byte sequence makes the single-frame decoder read past its end (R9). -/
theorem tryDecode_ok (b : List Byte) : ∃ o, tryDecode b = .ok o := by
  rcases tryDecode_cases b with ⟨_, h⟩ | ⟨_, _, h⟩ | ⟨_, _, _, h⟩ | ⟨_, _, _, h⟩ | ⟨_, _, _, h⟩
  all_goals exact ⟨_, h⟩

theorem execTryDecode_next (b : List Byte) (s : State) : ∃ u, execTryDecode b s = .next u := by
  obtain ⟨o, ho⟩ := tryDecode_ok b
  exact ⟨s.respond (.outcome o), by simp [execTryDecode, ho]⟩

/-- Settles O6: each clause is the check of one command, by the lemma of its meaning. -/
theorem portChecksOperands : Obligations.PortChecksOperands := by
  unfold Obligations.PortChecksOperands
  refine ⟨fun chunk s h => ?feedLong, fun t q p s h => ?encodeRange, fun t q p s ht ht' hq hq' => ⟨?encode, ?payload⟩,
    fun b s => ?tryDecode, fun b s => ?crc16, fun chunk s hq => ⟨?reset, ?feed⟩⟩
  case feedLong => exact execFeed_chunkTooLong h s
  case encodeRange => exact execEncode_operandOutOfRange (by omega) p s
  case encode => exact execEncode_next ⟨ht, ht'⟩ ⟨hq, hq'⟩ p s
  case payload => exact fun hp => execEncode_payloadTooLarge ⟨ht, ht'⟩ ⟨hq, hq'⟩ hp s
  case tryDecode => exact execTryDecode_next b s
  case crc16 => exact ⟨_, rfl⟩
  case reset => exact ⟨_, execReset_q hq⟩
  case feed =>
    intro hc
    obtain ⟨u, _, _, hu⟩ := execFeed_next hc hq
    exact ⟨_, hu⟩

/-! The selectors of R69 at the command port. -/

/-- R69: no row has a selector in 0x05..0x7F or 0x88..0xFF. -/
theorem decodeSelector_unassigned {selector : Byte}
    (h : (0x05 ≤ selector.toNat ∧ selector.toNat ≤ 0x7F) ∨ 0x88 ≤ selector.toNat) (rest : List Byte) :
    decodeSelector (selector :: rest) = .error (.unassignedSelector selector) := by
  simp only [decodeSelector]
  split
  case h_14 => rfl -- the last row of the table; the assigned selectors are outside the ranges
  all_goals omega

/-- The bytes of a drain action are read back, whatever follows them. -/
theorem decodeSelector_encode_actionInstr (a : DrainAction) (rest : List Byte) :
    decodeSelector (encode (actionInstr a) ++ rest) = .ok (actionInstr a, rest) := by
  cases a <;> rfl

/-- R69: the selectors 0x80..0x87 are those of the drain actions. -/
theorem exists_encode_actionInstr {selector : Byte} (h : 0x80 ≤ selector.toNat ∧ selector.toNat ≤ 0x87) :
    ∃ a, encode (actionInstr a) = [selector] := by
  obtain ⟨k, rfl⟩ : ∃ k : Fin 8, selector = BitVec.ofNat 8 (0x80 + k) :=
    ⟨⟨selector.toNat - 0x80, by omega⟩, BitVec.eq_of_toNat_eq (by simp; omega)⟩
  match k with
  | 0 => exact ⟨.s1WaitShort, rfl⟩
  | 1 => exact ⟨.s1Proceed, rfl⟩
  | 2 => exact ⟨.s2DiscardAll, rfl⟩
  | 3 => exact ⟨.s2AtSync, rfl⟩
  | 4 => exact ⟨.s2DiscardPrefix, rfl⟩
  | 5 => exact ⟨.s3WaitIncomplete, rfl⟩
  | 6 => exact ⟨.s3DropFalseSync, rfl⟩
  | 7 => exact ⟨.s3Emit, rfl⟩

/-- A drain action is not the host's to issue (R69). -/
@[simp] theorem actionInstr_isHostCommand (a : DrainAction) : (actionInstr a).isHostCommand = false := by
  cases a <;> rfl

/-- What the command port refuses, a step at Q refuses. -/
theorem step_refused {s : State} {r : Refusal} (hq : s.ctrl = .q) (h : fetchCommand s = .refused r) :
    step s = .refused r := by
  simp [step, fetch_q hq, h]

theorem fetchCommand_unassigned {s : State} {selector : Byte} {rest : List Byte} (hs : s.script = selector :: rest)
    (h : (0x05 ≤ selector.toNat ∧ selector.toNat ≤ 0x7F) ∨ 0x88 ≤ selector.toNat) :
    fetchCommand s = .refused .unassignedSelector := by
  simp [fetchCommand, hs, decodeSelector_unassigned h]

theorem fetchCommand_internal {s : State} {selector : Byte} {rest : List Byte} (hs : s.script = selector :: rest)
    (h : 0x80 ≤ selector.toNat ∧ selector.toNat ≤ 0x87) : fetchCommand s = .refused .internalSelector := by
  obtain ⟨a, ha⟩ := exists_encode_actionInstr h
  have hd : decodeSelector s.script = .ok (actionInstr a, rest) := by
    rw [hs, ← decodeSelector_encode_actionInstr a rest, ha, List.singleton_append]
  simp [fetchCommand, hd]

/-- Settles O25: the first bytes are those of the rows' match values, and a step at Q refuses what the port refuses. -/
theorem commandPortSelectors : Obligations.CommandPortSelectors := by
  unfold Obligations.CommandPortSelectors
  refine ⟨rfl, Laws.RowByte.feed, Laws.RowByte.encode, Laws.RowByte.tryDecode, Laws.RowByte.crc16,
    rfl, rfl, rfl, rfl, rfl, rfl, rfl, rfl,
    fun s selector rest hq hs => ⟨fun h => ?unassigned, fun h => ?internal⟩⟩
  case unassigned => exact step_refused hq (fetchCommand_unassigned hs h)
  case internal => exact step_refused hq (fetchCommand_internal hs h)

end Sys2Proof.Machine
end

section
/-! PROOFS. The CRC-16 generator (40_crc.md R82, R84): the recursive register update is the loop of R82 as a fold. -/

namespace Sys2Proof.Machine

/-- The loop of R82 runs once for each element of whatever list it folds over. -/
theorem foldl_crcShift {α : Type} (l : List α) (c : Word16) :
    l.foldl (fun r _ => crcShift r) c = crcShifts l.length c := by
  induction l generalizing c with
  | nil => rfl
  | cons x xs ih => exact ih (crcShift c)

/-- R82, one byte: eight shifts of the register with the byte in bits 15..8. -/
theorem crcUpdate_eq_foldl (c : Word16) (b : Byte) :
    crcUpdate c b = (List.range 8).foldl (fun r _ => crcShift r) (c ^^^ (BitVec.ofNat 16 b.toNat <<< 8)) := by
  rw [foldl_crcShift, List.length_range, BitVec.ofNat_toNat]
  rfl

/-- R84: the CRC is the fold of R82's loop over the bytes, from 0xFFFF. -/
theorem crc16_eq_foldl (data : List Byte) :
    crc16 data = data.foldl (fun c b =>
      (List.range 8).foldl (fun r _ => crcShift r) (c ^^^ (BitVec.ofNat 16 b.toNat <<< 8))) 0xFFFF#16 := by
  simp only [← crcUpdate_eq_foldl]
  rfl

theorem exec_crc16 (data : List Byte) (s : State) :
    exec (.crc16 data) s = .next (s.respond (.crc (crc16 data))) := rfl

/-- Settles O7: CRC16 appends one result, the CRC in its folded form, and every other field is the same. -/
theorem crc16ReturnsTheFoldedRegister : Obligations.Crc16ReturnsTheFoldedRegister := by
  unfold Obligations.Crc16ReturnsTheFoldedRegister
  intro data s
  rw [exec_crc16, crc16_eq_foldl]
  rfl

end Sys2Proof.Machine
end

section
/-! PROOFS. The frame encoder (41_encoder.md R90, R91): the bytes of a frame by number, and the answer of ENCODE. -/

namespace Sys2Proof.Machine

/-- R9, R42: `le16` by the value of the word, in the spelling of R90. -/
theorem le16_eq_toNat (v : Word16) : le16 v = [BitVec.ofNat 8 (v.toNat % 256), BitVec.ofNat 8 (v.toNat / 256)] := by
  have lo : v.extractLsb' 0 8 = BitVec.ofNat 8 (v.toNat % 256) :=
    BitVec.eq_of_toNat_eq (by simp)
  have hi : v.extractLsb' 8 8 = BitVec.ofNat 8 (v.toNat / 256) :=
    BitVec.eq_of_toNat_eq (by simp [Nat.shiftRight_eq_div_pow])
  rw [le16_eq, lo, hi]

/-- R60, R62: the length field holds the payload's length itself, which fits its 16 bits. -/
theorem frameBytes_eq (t q : Byte) {p : List Byte} (hp : p.length ≤ 65535) :
    frameBytes t q p =
      [0xAA, BitVec.ofNat 8 (p.length % 256), BitVec.ofNat 8 (p.length / 256), t, q] ++ p ++
        [BitVec.ofNat 8 ((crc16 ([t, q] ++ p)).toNat % 256), BitVec.ofNat 8 ((crc16 ([t, q] ++ p)).toNat / 256)] := by
  have hlen : (BitVec.ofNat 16 p.length).toNat = p.length := by
    rw [BitVec.toNat_ofNat, Nat.mod_eq_of_lt (by omega)]
  rw [frameBytes, le16_eq_toNat, le16_eq_toNat, hlen]
  rfl

theorem exec_encode (type seq : Int) (payload : List Byte) (s : State) :
    exec (.encode type seq payload) s = execEncode type seq payload s := rfl

/-- Settles O11: the two outcomes of ENCODE, by whether the payload fits; a byte is an admitted operand. -/
theorem encodeReturnsTheFrame : Obligations.EncodeReturnsTheFrame := by
  unfold Obligations.EncodeReturnsTheFrame
  intro t q p s
  have ht := (byteAdmitted_iff _).1 (byteAdmitted_toNat t)
  have hq := (byteAdmitted_iff _).1 (byteAdmitted_toNat q)
  rw [exec_encode]
  by_cases hp : 65535 < p.length
  · rw [execEncode_payloadTooLarge ht hq hp, if_pos hp]
    rfl
  · have hp' : p.length ≤ 65535 := Nat.not_lt.1 hp
    rw [execEncode_frame ht hq hp', byteOf_toNat, byteOf_toNat, frameBytes_eq t q hp', if_neg hp]
    rfl

end Sys2Proof.Machine
end

section
/-! PROOFS. The single-frame decoder (42_decoder.md R100 to R105): the checks of `try_decode` in one equation, and the
answer of TRY_DECODE. -/

namespace Sys2Proof.Machine

/-- R102 by the byte at offset 0: an absent first byte reads as 0, which is no sync byte. -/
theorem head?_eq_sync_iff (b : List Byte) : b.head? = some Params.sync ↔ b.getD 0 0 = 0xAA := by
  cases b with
  | nil => simp
  | cons x xs => simp [Params.sync]

/-- R100: the ordered checks on a byte sequence of any length. -/
theorem tryDecode_eq (b : List Byte) :
    tryDecode b = .ok
      (if b.length < 7 then .incomplete
      else if b.getD 0 0 ≠ 0xAA then .invalid .badSync
      else if b.length < 7 + declaredLength b then .incomplete
      else if candidateCrc b (declaredLength b) ≠ (messageCrc (candidateMessage b (declaredLength b))).toNat then
        .invalid .badCrc
      else .decoded (candidateMessage b (declaredLength b)) (7 + declaredLength b)) := by
  by_cases h : b.length < 7
  · rw [tryDecode_short h, if_pos h]
  · rw [tryDecode_long (Nat.not_lt.1 h), if_neg h]
    simp only [ne_eq, head?_eq_sync_iff]

theorem exec_tryDecode (b : List Byte) (s : State) : exec (.tryDecode b) s = execTryDecode b s := rfl

/-- The answer of `try_decode` goes to the result port and nowhere else. -/
theorem execTryDecode_of_ok {b : List Byte} {o : DecodeOutcome} (h : tryDecode b = .ok o) (s : State) :
    execTryDecode b s = .next (s.respond (.outcome o)) := by
  simp only [execTryDecode, h]

/-- Settles O12: TRY_DECODE returns the answer of `try_decode`; the statement writes out the declared length, the
candidate's message and the two CRC values by offset. -/
theorem tryDecodeChecksInOrder : Obligations.TryDecodeChecksInOrder := by
  unfold Obligations.TryDecodeChecksInOrder
  intro b s
  rw [exec_tryDecode, execTryDecode_of_ok (tryDecode_eq b)]
  rfl

end Sys2Proof.Machine
end

section
/-! PROOFS. The byte-stream synchronizer (43_stream.md R121 to R126, R130, R132): the drain actions that move no record,
RESET, and FEED as a run of the machine's own steps. -/

namespace Sys2Proof.Machine

/-! The actions at S1 (R121, R122). -/

theorem execS1WaitShort_of_short {s : State} (hc : s.ctrl = .s1) (hl : s.buf.length < 7) :
    execS1WaitShort s = .next (s.setCtrl .q) :=
  if_pos ⟨hc, hl⟩

theorem execS1Proceed_of_long {s : State} (hc : s.ctrl = .s1) (hl : 7 ≤ s.buf.length) :
    execS1Proceed s = .next (s.setCtrl .s2) :=
  if_pos ⟨hc, hl⟩

/-- Settles O13: the guard of R121 holds, and the next state differs in the control state alone. -/
theorem s1WaitShortKeepsTheBuffer : Obligations.S1WaitShortKeepsTheBuffer := by
  unfold Obligations.S1WaitShortKeepsTheBuffer
  intro s hc hl
  exact execS1WaitShort_of_short hc hl

/-- Settles O14: the guard of R122 holds, and the next state differs in the control state alone. -/
theorem s1ProceedGoesToS2 : Obligations.S1ProceedGoesToS2 := by
  unfold Obligations.S1ProceedGoesToS2
  intro s hc hl
  exact execS1Proceed_of_long hc hl

/-! The search for a sync byte, by offset (R123, R125). -/

/-- The model's search is the library's: the first index whose byte is the sync byte. -/
theorem firstSync_eq_findIdx? (b : List Byte) : firstSync b = b.findIdx? (· = Params.sync) := by
  induction b with
  | nil => rfl
  | cons x xs ih => simp [firstSync, List.findIdx?_cons, ih]

/-- R123: nothing is found when no offset holds a sync byte. -/
theorem firstSync_eq_none_iff {b : List Byte} :
    firstSync b = none ↔ ∀ i < b.length, b[i]? ≠ some Params.sync := by
  simp only [firstSync_eq_findIdx?, List.findIdx?_eq_none_iff, decide_eq_false_iff_not, List.forall_mem_iff_getElem]
  exact forall₂_congr fun i hi => by simp [hi]

/-- R125: the offset found is the smallest that holds a sync byte. -/
theorem firstSync_eq_some_iff {b : List Byte} {k : Nat} :
    firstSync b = some k ↔ b[k]? = some Params.sync ∧ ∀ i < k, b[i]? ≠ some Params.sync := by
  simp only [firstSync_eq_findIdx?, List.findIdx?_eq_some_iff_getElem, decide_eq_true_eq, List.getElem?_eq_some_iff,
    ne_eq, not_exists]
  constructor
  · rintro ⟨hk, hsync, hbefore⟩
    exact ⟨⟨hk, hsync⟩, fun i hi _ => hbefore i hi⟩
  · rintro ⟨⟨hk, hsync⟩, hbefore⟩
    exact ⟨hk, hsync, fun i hi => hbefore i hi (hi.trans hk)⟩

/-! The actions at S2 (R123 to R125). -/

theorem execS2DiscardAll_of_none {s : State} (hc : s.ctrl = .s2) (hf : firstSync s.buf = none) :
    execS2DiscardAll s = .next (s.bufClear.setCtrl .q) :=
  if_pos ⟨hc, hf⟩

theorem execS2AtSync_of_zero {s : State} (hc : s.ctrl = .s2) (hf : firstSync s.buf = some 0) :
    execS2AtSync s = .next (s.setCtrl .s3) :=
  if_pos ⟨hc, hf⟩

theorem execS2DiscardPrefix_of_pos {s : State} {k : Nat} (hc : s.ctrl = .s2) (hk : 0 < k)
    (hf : firstSync s.buf = some k) : execS2DiscardPrefix s = .next ((s.bufDrop k).setCtrl .s1) := by
  obtain ⟨j, rfl⟩ := Nat.exists_eq_add_one.2 hk
  simp [execS2DiscardPrefix, hc, hf]

/-- Settles O15: with no 0xAA at any offset the search finds nothing, which is the guard of R123. -/
theorem s2DiscardAllClearsTheBuffer : Obligations.S2DiscardAllClearsTheBuffer := by
  unfold Obligations.S2DiscardAllClearsTheBuffer
  intro s hc hnone
  exact execS2DiscardAll_of_none hc (firstSync_eq_none_iff.2 hnone)

/-- Settles O16: with 0xAA at offset 0 the search finds offset 0, which is the guard of R124. -/
theorem s2AtSyncGoesToS3 : Obligations.S2AtSyncGoesToS3 := by
  unfold Obligations.S2AtSyncGoesToS3
  intro s hc _ hsync
  have hf : firstSync s.buf = some 0 := firstSync_eq_some_iff.2 ⟨hsync, by simp⟩
  exact execS2AtSync_of_zero hc hf

/-- Settles O17: the search finds the offset `k` of the first 0xAA, which the action drops the buffer to (R125). -/
theorem s2DiscardPrefixDropsTheNoise : Obligations.S2DiscardPrefixDropsTheNoise := by
  unfold Obligations.S2DiscardPrefixDropsTheNoise
  intro s k hc hk hsync hbefore
  exact execS2DiscardPrefix_of_pos hc hk (firstSync_eq_some_iff.2 ⟨hsync, hbefore⟩)

/-! The incomplete candidate at S3 (R126). -/

theorem execS3WaitIncomplete_of_incomplete {s : State} (hc : s.ctrl = .s3) (ht : tryDecode s.buf = .ok .incomplete) :
    execS3WaitIncomplete s = .next (s.setCtrl .q) := by
  simp [execS3WaitIncomplete, hc, ht]

/-- Settles O18: the guard of R126 holds, and the next state differs in the control state alone. -/
theorem s3WaitIncompleteKeepsTheBuffer : Obligations.S3WaitIncompleteKeepsTheBuffer := by
  unfold Obligations.S3WaitIncompleteKeepsTheBuffer
  intro s hc ht
  exact execS3WaitIncomplete_of_incomplete hc ht

/-! RESET (R132) and FEED (R130). -/

/-- Settles O2: at Q RESET is not refused, and its three updates touch the buffer, `at` and the result port. -/
theorem resetDropsThePartialBuffer : Obligations.ResetDropsThePartialBuffer := by
  unfold Obligations.ResetDropsThePartialBuffer
  intro s hq
  exact execReset_q hq

/-- Off Q, a run of the machine's steps begins with the RX agent's action (R120). -/
theorem actionsBySteps_succ {s t : State} (hq : s.ctrl ≠ .q) (h : drainStep s = .next t) (k : Nat) :
    actionsBySteps (k + 1) s = actionsBySteps k t := by
  obtain ⟨_, _, _, _, hstep, _⟩ := step_draining hq
  simp [actionsBySteps, hq, hstep, h]

/-- A drain that ends is a run of the machine's own steps, of at most as many actions as the drain was allowed. -/
theorem actionsBySteps_of_drain {fuel : Nat} {s u : State} (h : drain fuel s = .next u) :
    ∃ k ≤ fuel, actionsBySteps k s = some u := by
  induction fuel generalizing s with
  | zero =>
    simp only [drain] at h
    split at h
    · cases h
      exact ⟨0, le_rfl, rfl⟩
    · cases h
  | succ fuel ih =>
    by_cases hq : s.ctrl = .q
    · simp only [drain, if_pos hq] at h
      cases h
      exact ⟨0, Nat.zero_le _, rfl⟩
    · obtain ⟨_, t, _, _, _, ht⟩ := step_draining hq
      simp only [drain, if_neg hq, ht] at h
      obtain ⟨k, hk, hrun⟩ := ih h
      exact ⟨k + 1, Nat.succ_le_succ hk, (actionsBySteps_succ hq ht k).trans hrun⟩

/-- Settles O4: FEED's drain from the appended buffer at S1 is a run of the machine's own steps, it ends at Q, and OK
is returned after it. -/
theorem feedAppendsAndDrainsToQuiescence : Obligations.FeedAppendsAndDrainsToQuiescence := by
  unfold Obligations.FeedAppendsAndDrainsToQuiescence
  intro chunk s hchunk hq
  obtain ⟨u, hdrain, hu, hfeed⟩ := execFeed_next hchunk hq
  obtain ⟨k, _, hrun⟩ := actionsBySteps_of_drain hdrain
  exact ⟨k, u, hrun, hu, hfeed⟩

end Sys2Proof.Machine
end

section
/-! PROOFS. The numeric codes of results, outcomes, reasons and diagnostics (60_exceptions.md R153). -/

namespace Sys2Proof.Machine

/-- Settles O51: each clause is one row of the table of R153. A frame's status is that of every byte sequence, and an
outcome's tag is that of every message, count and reason it carries. -/
theorem resultAndRecordCodes : Obligations.ResultAndRecordCodes := by
  unfold Obligations.ResultAndRecordCodes
  refine ⟨rfl, ?frame, rfl, ?decoded, rfl, ?invalid, rfl, rfl, rfl⟩
  case frame =>
    intro bytes
    rfl
  case decoded =>
    intro m n
    rfl
  case invalid =>
    intro r
    rfl

end Sys2Proof.Machine
end

section
/-! PROOFS. Power-on (10_state.md R34, 70_reset_and_hazards.md R170): the reset state, and RESET from it. -/

namespace Sys2Proof.Machine

/-- Settles O1: the state after reset is at Q, so RESET is admitted there; it clears the buffer, and the logs it leaves
unchanged (R132) are those of power-on. -/
theorem powerOnIsTheResetState : Obligations.PowerOnIsTheResetState := by
  unfold Obligations.PowerOnIsTheResetState
  have hreset := resetDropsThePartialBuffer State.reset rfl
  exact ⟨rfl, rfl, rfl, rfl, _, hreset, rfl, rfl, rfl, rfl⟩

end Sys2Proof.Machine
end

section
/-! PROOFS. The RX agent's actions (43_stream.md R120 to R129): the action of each guard, that a drain action runs only
where it is the enabled one, and the length of a drain. -/

namespace Sys2Proof.Machine

/-! One equation per action of the RX agent (R121 to R128). -/

theorem drainStep_s1WaitShort {s : State} (hc : s.ctrl = .s1) (hl : s.buf.length < 7) :
    drainStep s = .next (s.setCtrl .q) := by
  simp [drainStep, enabledAction, takeAction, execS1WaitShort_of_short, hc, hl, Params.minFrame]

theorem drainStep_s1Proceed {s : State} (hc : s.ctrl = .s1) (hl : 7 ≤ s.buf.length) :
    drainStep s = .next (s.setCtrl .s2) := by
  simp [drainStep, enabledAction, takeAction, execS1Proceed_of_long, hc, hl, Params.minFrame, Nat.not_lt.2 hl]

theorem drainStep_s2DiscardAll {s : State} (hc : s.ctrl = .s2) (hf : firstSync s.buf = none) :
    drainStep s = .next (s.bufClear.setCtrl .q) := by
  simp [drainStep, enabledAction, takeAction, execS2DiscardAll_of_none, hc, hf]

theorem drainStep_s2AtSync {s : State} (hc : s.ctrl = .s2) (hf : firstSync s.buf = some 0) :
    drainStep s = .next (s.setCtrl .s3) := by
  simp [drainStep, enabledAction, takeAction, execS2AtSync_of_zero, hc, hf]

theorem drainStep_s2DiscardPrefix {s : State} {k : Nat} (hc : s.ctrl = .s2) (hf : firstSync s.buf = some (k + 1)) :
    drainStep s = .next ((s.bufDrop (k + 1)).setCtrl .s1) := by
  simp [drainStep, enabledAction, takeAction, execS2DiscardPrefix_of_pos hc (Nat.succ_pos k) hf, hc, hf]

theorem drainStep_s3WaitIncomplete {s : State} (hc : s.ctrl = .s3) (ht : tryDecode s.buf = .ok .incomplete) :
    drainStep s = .next (s.setCtrl .q) := by
  simp [drainStep, enabledAction, takeAction, execS3WaitIncomplete_of_incomplete, hc, ht]

theorem execS3DropFalseSync_of_invalid {s : State} {r : InvalidReason} (hc : s.ctrl = .s3)
    (ht : tryDecode s.buf = .ok (.invalid r)) :
    execS3DropFalseSync s = .next (((s.emitDiag .frameInvalidBadCrc).bufDrop 1).setCtrl .s2) := by
  simp [execS3DropFalseSync, hc, ht]

theorem drainStep_s3DropFalseSync {s : State} {r : InvalidReason} (hc : s.ctrl = .s3)
    (ht : tryDecode s.buf = .ok (.invalid r)) :
    drainStep s = .next (((s.emitDiag .frameInvalidBadCrc).bufDrop 1).setCtrl .s2) := by
  simp [drainStep, enabledAction, takeAction, execS3DropFalseSync_of_invalid hc ht, hc, ht]

theorem execS3Emit_of_decoded {s : State} {m : Message} {n : Nat} (hc : s.ctrl = .s3)
    (ht : tryDecode s.buf = .ok (.decoded m n)) :
    execS3Emit s = .next (((s.emitMsg m).bufDrop n).setCtrl .s1) := by
  simp [execS3Emit, hc, ht]

theorem drainStep_s3Emit {s : State} {m : Message} {n : Nat} (hc : s.ctrl = .s3)
    (ht : tryDecode s.buf = .ok (.decoded m n)) :
    drainStep s = .next (((s.emitMsg m).bufDrop n).setCtrl .s1) := by
  simp [drainStep, enabledAction, takeAction, execS3Emit_of_decoded hc ht, hc, ht]

/-- R127: with a sync byte first, the only reason a candidate is invalid for is its CRC. -/
theorem tryDecode_invalid_badCrc {b : List Byte} {r : InvalidReason} (h : tryDecode b = .ok (.invalid r))
    (h0 : b.head? = some Params.sync) : r = .badCrc := by
  rcases tryDecode_cases b with ⟨_, e⟩ | ⟨_, hne, _⟩ | ⟨_, _, _, e⟩ | ⟨_, _, _, e⟩ | ⟨_, _, _, e⟩
  case inr.inl => exact absurd h0 hne
  all_goals rw [e] at h; cases h
  rfl

/-- Settles O19: the guard of R127 holds, and the four updates are those of the statement; the reason is that of a
candidate with a sync byte first. -/
theorem s3DropFalseSyncDropsOneByte : Obligations.S3DropFalseSyncDropsOneByte := by
  unfold Obligations.S3DropFalseSyncDropsOneByte
  intro s r hc ht
  refine ⟨execS3DropFalseSync_of_invalid hc ht, fun h0 => tryDecode_invalid_badCrc ht ?_⟩
  rw [List.head?_eq_getElem?]
  exact h0

/-- Settles O20: the guard of R128 holds, and a decoded outcome bounds the consumed count (R105). -/
theorem s3EmitDeliversTheMessage : Obligations.S3EmitDeliversTheMessage := by
  unfold Obligations.S3EmitDeliversTheMessage
  intro s m n hc ht
  obtain ⟨_, hn, hle, _, _⟩ := tryDecode_decoded ht
  have hd := declaredLength_le s.buf
  exact ⟨execS3Emit_of_decoded hc ht, hn, by omega, by omega, hle⟩

/-! Which action runs (R120). -/

/-- R120: a drain action runs only where it is the enabled one. -/
theorem takeAction_enabled_or_refused (a : DrainAction) (s : State) :
    enabledAction s = .ok (some a) ∨ takeAction a s = .refused .actionNotEnabled := by
  obtain ⟨o, ho⟩ := tryDecode_ok s.buf
  cases a with
  | s1WaitShort =>
    by_cases h : s.ctrl = .s1 ∧ s.buf.length < Params.minFrame
    · exact .inl (by simp [enabledAction, h.1, h.2])
    · exact .inr (if_neg h)
  | s1Proceed =>
    by_cases h : s.ctrl = .s1 ∧ Params.minFrame ≤ s.buf.length
    · exact .inl (by simp [enabledAction, h.1, Nat.not_lt.2 h.2])
    · exact .inr (if_neg h)
  | s2DiscardAll =>
    by_cases h : s.ctrl = .s2 ∧ firstSync s.buf = none
    · exact .inl (by simp [enabledAction, h.1, h.2])
    · exact .inr (if_neg h)
  | s2AtSync =>
    by_cases h : s.ctrl = .s2 ∧ firstSync s.buf = some 0
    · exact .inl (by simp [enabledAction, h.1, h.2])
    · exact .inr (if_neg h)
  | s2DiscardPrefix =>
    by_cases hc : s.ctrl = .s2
    · rcases hf : firstSync s.buf with _ | _ | k <;> simp [enabledAction, takeAction, execS2DiscardPrefix, hc, hf]
    · exact .inr (if_neg hc)
  | s3WaitIncomplete =>
    by_cases hc : s.ctrl = .s3
    · cases o <;> simp [enabledAction, takeAction, execS3WaitIncomplete, hc, ho]
    · exact .inr (if_neg hc)
  | s3DropFalseSync =>
    by_cases hc : s.ctrl = .s3
    · cases o <;> simp [enabledAction, takeAction, execS3DropFalseSync, hc, ho]
    · exact .inr (if_neg hc)
  | s3Emit =>
    by_cases hc : s.ctrl = .s3
    · cases o <;> simp [enabledAction, takeAction, execS3Emit, hc, ho]
    · exact .inr (if_neg hc)

/-- R120: every drain action but the enabled one is refused. -/
theorem takeAction_refused {a : DrainAction} {s : State} (h : enabledAction s ≠ .ok (some a)) :
    takeAction a s = .refused .actionNotEnabled :=
  (takeAction_enabled_or_refused a s).resolve_left h

theorem off_of_enabledAction {a : DrainAction} {s : State} (h : enabledAction s = .ok (some a)) : s.ctrl ≠ .q := by
  intro hq
  rw [enabledAction_q hq] at h
  cases h

theorem takeAction_of_enabledAction {a : DrainAction} {s : State} (h : enabledAction s = .ok (some a)) :
    takeAction a s = drainStep s := by
  simp only [drainStep, h]

theorem enabledAction_of_takeAction {a : DrainAction} {s t : State} (h : takeAction a s = .next t) :
    enabledAction s = .ok (some a) := by
  refine (takeAction_enabled_or_refused a s).resolve_right fun hr => ?_
  rw [hr] at h
  cases h

/-- A drain action that answers a next state is the RX agent's step, and the state is off Q. -/
theorem takeAction_next {a : DrainAction} {s t : State} (h : takeAction a s = .next t) :
    s.ctrl ≠ .q ∧ drainStep s = .next t := by
  have ha := enabledAction_of_takeAction h
  exact ⟨off_of_enabledAction ha, (takeAction_of_enabledAction ha).symm.trans h⟩

/-- Settles O21: off Q the enabled action runs and any other is refused; at Q none is enabled. -/
theorem exactlyOneDrainActionIsEnabled : Obligations.ExactlyOneDrainActionIsEnabled := by
  unfold Obligations.ExactlyOneDrainActionIsEnabled
  intro s
  refine ⟨fun hq => ?off, fun hq b => ?quiescent⟩
  case off =>
    obtain ⟨a, t, ha, hstep, hdrain, ht⟩ := step_draining hq
    refine ⟨a, t, by rw [← hstep, hdrain, ht], fun b hb => ?_⟩
    rw [exec_actionInstr]
    refine takeAction_refused ?_
    rw [ha]
    simpa using hb.symm
  case quiescent =>
    rw [exec_actionInstr]
    refine takeAction_refused ?_
    rw [enabledAction_q hq]
    simp

/-- Settles O22: a step off Q is the meaning of the enabled action (R120). -/
theorem stepTakesTheEnabledAction : Obligations.StepTakesTheEnabledAction := by
  unfold Obligations.StepTakesTheEnabledAction
  intro s hq
  obtain ⟨a, t, _, hstep, hdrain, ht⟩ := step_draining hq
  exact ⟨a, t, hstep, by rw [← hstep, hdrain, ht]⟩

/-- Settles O5: the drain within the bound of R129 is a run of the machine's own steps; it is not the empty run, since
it ends at Q. -/
theorem drainEndsWithinTheBound : Obligations.DrainEndsWithinTheBound := by
  unfold Obligations.DrainEndsWithinTheBound
  intro s hq
  obtain ⟨u, hdrain, hu⟩ := drain_bound_next s
  obtain ⟨k, hk, hrun⟩ := actionsBySteps_of_drain hdrain
  refine ⟨k, u, Nat.one_le_iff_ne_zero.2 fun h0 => ?_, hk, hrun, hu⟩
  subst h0
  cases hrun
  exact hq hu

/-! What an action changes (R33, R46). -/

/-- The next state of each action, with the guard that enabled it (R121 to R128). -/
theorem drainStep_inv {s t : State} (h : s.ctrl ≠ .q) (ht : drainStep s = .next t) :
    (s.ctrl = .s1 ∧ s.buf.length < 7 ∧ t = s.setCtrl .q) ∨
    (s.ctrl = .s1 ∧ 7 ≤ s.buf.length ∧ t = s.setCtrl .s2) ∨
    (s.ctrl = .s2 ∧ firstSync s.buf = none ∧ t = s.bufClear.setCtrl .q) ∨
    (s.ctrl = .s2 ∧ firstSync s.buf = some 0 ∧ t = s.setCtrl .s3) ∨
    (∃ k, s.ctrl = .s2 ∧ firstSync s.buf = some (k + 1) ∧ t = (s.bufDrop (k + 1)).setCtrl .s1) ∨
    (s.ctrl = .s3 ∧ tryDecode s.buf = .ok .incomplete ∧ t = s.setCtrl .q) ∨
    (∃ r, s.ctrl = .s3 ∧ tryDecode s.buf = .ok (.invalid r) ∧
      t = ((s.emitDiag .frameInvalidBadCrc).bufDrop 1).setCtrl .s2) ∨
    (∃ m n, s.ctrl = .s3 ∧ tryDecode s.buf = .ok (.decoded m n) ∧ t = ((s.emitMsg m).bufDrop n).setCtrl .s1) := by
  rcases drainStep_cases h with ⟨hc, hg, _, e⟩ | ⟨hc, hg, _, e⟩ | ⟨hc, hg, _, e⟩ | ⟨hc, hg, _, e⟩ |
    ⟨k, hc, hg, _, e⟩ | ⟨hc, hg, _, e⟩ | ⟨r, hc, hg, _, e⟩ | ⟨m, n, hc, hg, _, e⟩ <;> rw [e] at ht <;> cases ht
  · exact .inl ⟨hc, hg, rfl⟩
  · exact .inr (.inl ⟨hc, hg, rfl⟩)
  · exact .inr (.inr (.inl ⟨hc, hg, rfl⟩))
  · exact .inr (.inr (.inr (.inl ⟨hc, hg, rfl⟩)))
  · exact .inr (.inr (.inr (.inr (.inl ⟨k, hc, hg, rfl⟩))))
  · exact .inr (.inr (.inr (.inr (.inr (.inl ⟨hc, hg, rfl⟩)))))
  · exact .inr (.inr (.inr (.inr (.inr (.inr (.inl ⟨r, hc, hg, rfl⟩))))))
  · exact .inr (.inr (.inr (.inr (.inr (.inr (.inr ⟨m, n, hc, hg, rfl⟩))))))

/-- A decided candidate has at least one byte: its sync. -/
theorem one_le_length_of_invalid {b : List Byte} {r : InvalidReason} (h : tryDecode b = .ok (.invalid r)) :
    1 ≤ b.length := by
  by_contra hlt
  rw [tryDecode_short (by omega)] at h
  cases h

/-- R46: an action of the RX agent only removes bytes from the front of the buffer. -/
theorem drainStep_buf {s t : State} (h : s.ctrl ≠ .q) (ht : drainStep s = .next t) :
    ∃ k ≤ s.buf.length, t.buf = s.buf.drop k := by
  have kept : ∃ k ≤ s.buf.length, s.buf = s.buf.drop k := ⟨0, Nat.zero_le _, rfl⟩
  rcases drainStep_inv h ht with ⟨_, _, rfl⟩ | ⟨_, _, rfl⟩ | ⟨_, _, rfl⟩ | ⟨_, _, rfl⟩ | ⟨k, _, hf, rfl⟩ |
    ⟨_, _, rfl⟩ | ⟨r, _, hd, rfl⟩ | ⟨m, n, _, hd, rfl⟩
  · exact kept
  · exact kept
  · exact ⟨s.buf.length, le_rfl, by simp⟩
  · exact kept
  · exact ⟨k + 1, (firstSync_some hf).1.le, rfl⟩
  · exact kept
  · exact ⟨1, one_le_length_of_invalid hd, rfl⟩
  · obtain ⟨_, _, hle, _, _⟩ := tryDecode_decoded hd
    exact ⟨n, hle, rfl⟩

/-- R33: an action of the RX agent returns nothing and issues no command. -/
theorem drainStep_port {s t : State} (h : s.ctrl ≠ .q) (ht : drainStep s = .next t) :
    t.results = s.results ∧ t.script = s.script := by
  rcases drainStep_inv h ht with ⟨_, _, rfl⟩ | ⟨_, _, rfl⟩ | ⟨_, _, rfl⟩ | ⟨_, _, rfl⟩ | ⟨k, _, hf, rfl⟩ |
    ⟨_, _, rfl⟩ | ⟨r, _, hd, rfl⟩ | ⟨m, n, _, hd, rfl⟩ <;> exact ⟨rfl, rfl⟩

/-- What an action of the RX agent does to the logs: nothing, one diagnostic (R127), or one message whose payload fits
its length field (R128). -/
theorem drainStep_logs {s t : State} (h : s.ctrl ≠ .q) (ht : drainStep s = .next t) :
    (t.msgLog = s.msgLog ∧ t.diagLog = s.diagLog) ∨
    (t.msgLog = s.msgLog ∧ t.diagLog = s.diagLog ++ [{ pos := s.nextPos, reason := .frameInvalidBadCrc }]) ∨
    (∃ m : Message, m.payload.length ≤ 65535 ∧ t.msgLog = s.msgLog ++ [{ pos := s.nextPos, msg := m }] ∧
      t.diagLog = s.diagLog) := by
  rcases drainStep_inv h ht with ⟨_, _, rfl⟩ | ⟨_, _, rfl⟩ | ⟨_, _, rfl⟩ | ⟨_, _, rfl⟩ | ⟨k, _, hf, rfl⟩ |
    ⟨_, _, rfl⟩ | ⟨r, _, hd, rfl⟩ | ⟨m, n, _, hd, rfl⟩
  · exact .inl ⟨rfl, rfl⟩
  · exact .inl ⟨rfl, rfl⟩
  · exact .inl ⟨rfl, rfl⟩
  · exact .inl ⟨rfl, rfl⟩
  · exact .inl ⟨rfl, rfl⟩
  · exact .inl ⟨rfl, rfl⟩
  · exact .inr (.inl ⟨rfl, rfl⟩)
  · obtain ⟨_, _, _, _, hp⟩ := tryDecode_decoded hd
    exact .inr (.inr ⟨m, hp ▸ declaredLength_le _, rfl, rfl⟩)

/-- Settles O39: a drain action that runs is the RX agent's step. -/
theorem drainActionsOnlyDropFromTheFront : Obligations.DrainActionsOnlyDropFromTheFront := by
  unfold Obligations.DrainActionsOnlyDropFromTheFront
  intro a s t h
  rw [exec_actionInstr] at h
  obtain ⟨hq, hstep⟩ := takeAction_next h
  exact drainStep_buf hq hstep

end Sys2Proof.Machine
end

section
/-! PROOFS. What every instruction and every step keeps: exec by kinds of instruction, the induction over the updates
that exec is made of, and the invariants of the RX side (43_stream.md R133, R139) and of the logs (10_state.md R22,
R32). -/

namespace Sys2Proof.Machine

/-! exec by kinds of instruction. -/

/-- The rows of the table: drain actions, host commands, and the rows of the RX byte stream. -/
theorem instr_kind (i : Instr) :
    (∃ a, i = actionInstr a) ∨ i = .reset ∨ (∃ c, i = .feed c) ∨
      ((∃ t q p, i = .encode t q p) ∨ (∃ b, i = .tryDecode b) ∨ ∃ d, i = .crc16 d) ∨ instrSpace i ≠ .selector := by
  cases i with
  | reset => exact .inr (.inl rfl)
  | feed c => exact .inr (.inr (.inl ⟨c, rfl⟩))
  | encode t q p => exact .inr (.inr (.inr (.inl (.inl ⟨t, q, p, rfl⟩))))
  | tryDecode b => exact .inr (.inr (.inr (.inl (.inr (.inl ⟨b, rfl⟩)))))
  | crc16 d => exact .inr (.inr (.inr (.inl (.inr (.inr ⟨d, rfl⟩)))))
  | s1WaitShort => exact .inl ⟨.s1WaitShort, rfl⟩
  | s1Proceed => exact .inl ⟨.s1Proceed, rfl⟩
  | s2DiscardAll => exact .inl ⟨.s2DiscardAll, rfl⟩
  | s2AtSync => exact .inl ⟨.s2AtSync, rfl⟩
  | s2DiscardPrefix => exact .inl ⟨.s2DiscardPrefix, rfl⟩
  | s3WaitIncomplete => exact .inl ⟨.s3WaitIncomplete, rfl⟩
  | s3DropFalseSync => exact .inl ⟨.s3DropFalseSync, rfl⟩
  | s3Emit => exact .inl ⟨.s3Emit, rfl⟩
  | typeCommand | typeResponse | typeEvent | typeAck | typeNak | typeData | typeOpaque | frame =>
    exact .inr (.inr (.inr (.inr (by simp [instrSpace]))))

/-- A row of the RX byte stream is the reception of its bytes (R66, R60), but for a frame that R60 does not have. -/
theorem exec_wire {i : Instr} (h : instrSpace i ≠ .selector) :
    (∀ s, exec i s = receiveBytes (encode i) s) ∨
      (i.wellFormed = false ∧ ∀ s, exec i s = .refused .noSuchFrame) := by
  cases i with
  | typeCommand | typeResponse | typeEvent | typeAck | typeNak | typeData | typeOpaque => exact .inl fun _ => rfl
  | frame t q p =>
    by_cases hp : p.length > Params.maxPayload
    · exact .inr ⟨by simpa [Instr.wellFormed] using hp, fun _ => if_pos hp⟩
    · exact .inl fun _ => if_neg hp
  | _ => exact absurd rfl h

/-- A query that answers a next state answers one value and changes nothing else (R33). -/
theorem exec_query {i : Instr} (h : (∃ t q p, i = .encode t q p) ∨ (∃ b, i = .tryDecode b) ∨ ∃ d, i = .crc16 d) :
    (∃ r, ∀ s, exec i s = .next (s.respond r)) ∨
      (i.wellFormed = false ∧ ∀ s, exec i s = .refused .operandOutOfRange) := by
  rcases h with ⟨t, q, p, rfl⟩ | ⟨b, rfl⟩ | ⟨d, rfl⟩
  · by_cases ht : 0 ≤ t ∧ t ≤ 255
    · by_cases hq : 0 ≤ q ∧ q ≤ 255
      · by_cases hp : p.length ≤ 65535
        · exact .inl ⟨_, execEncode_frame ht hq hp⟩
        · exact .inl ⟨_, execEncode_payloadTooLarge ht hq (Nat.not_le.1 hp)⟩
      · exact .inr ⟨decide_eq_false (by omega), execEncode_operandOutOfRange (.inr hq) p⟩
    · exact .inr ⟨decide_eq_false (by omega), execEncode_operandOutOfRange (.inl ht) p⟩
  · obtain ⟨o, ho⟩ := tryDecode_ok b
    exact .inl ⟨_, execTryDecode_of_ok ho⟩
  · exact .inl ⟨_, exec_crc16 d⟩

theorem execReset_off {s : State} (hq : s.ctrl ≠ .q) : execReset s = .refused .notQuiescent := if_pos hq

/-- Everything an instruction that answers a next state can be. -/
theorem exec_cases {i : Instr} {s t : State} (h : exec i s = .next t) :
    (s.ctrl ≠ .q ∧ drainStep s = .next t) ∨ (s.ctrl = .q ∧ t = (s.bufClear.setCtrl .q).respond .ok) ∨
      (∃ chunk, execFeed chunk s = .next t) ∨ (∃ r, t = s.respond r) ∨ ∃ bytes, receiveBytes bytes s = .next t := by
  rcases instr_kind i with ⟨a, rfl⟩ | rfl | ⟨c, rfl⟩ | hi | hi
  · rw [exec_actionInstr] at h
    exact .inl (takeAction_next h)
  · by_cases hq : s.ctrl = .q
    · have e : exec .reset s = _ := execReset_q hq
      rw [e] at h
      cases h
      exact .inr (.inl ⟨hq, rfl⟩)
    · have e : exec .reset s = _ := execReset_off hq
      rw [e] at h
      cases h
  · exact .inr (.inr (.inl ⟨c, h⟩))
  · rcases exec_query hi with ⟨r, e⟩ | ⟨_, e⟩ <;> rw [e] at h <;> cases h
    exact .inr (.inr (.inr (.inl ⟨r, rfl⟩)))
  · rcases exec_wire hi with e | ⟨_, e⟩ <;> rw [e] at h
    · exact .inr (.inr (.inr (.inr ⟨_, h⟩)))
    · cases h

/-! The induction over updates. -/

/-- A predicate that is kept by every update of the state that exec is made of: the append of an admitted FEED, a drain
action, a value on the result port, and RESET's clearing of the buffer. -/
structure KeptByUpdates (P : State → Prop) : Prop where
  append : ∀ chunk s, chunk.length ≤ Config.chunkMax → s.ctrl = .q → P s → P (beginFeed chunk s)
  action : ∀ s t, s.ctrl ≠ .q → drainStep s = .next t → P s → P t
  respond : ∀ s r, P s → P (s.respond r)
  clear : ∀ s, s.ctrl = .q → P s → P (s.bufClear.setCtrl .q)

section Kept

variable {P : State → Prop} (kept : KeptByUpdates P)
include kept

theorem execFeed_keeps {chunk : List Byte} {s t : State} (h : execFeed chunk s = .next t) (hs : P s) : P t :=
  execFeed_induction kept.append kept.action (fun s _ => kept.respond s .ok) h hs

theorem exec_keeps {i : Instr} {s t : State} (h : exec i s = .next t) (hs : P s) : P t := by
  rcases exec_cases h with ⟨hq, hstep⟩ | ⟨hq, rfl⟩ | ⟨chunk, hfeed⟩ | ⟨r, rfl⟩ | ⟨bytes, hrecv⟩
  · exact kept.action s t hq hstep hs
  · exact kept.respond _ _ (kept.clear s hq hs)
  · exact execFeed_keeps kept hfeed hs
  · exact kept.respond s r hs
  · exact receiveBytes_induction (fun _ _ _ => execFeed_keeps kept) hrecv hs

/-- What every update keeps, and the script does not matter to, a step keeps. -/
theorem step_keeps (script : ∀ s sc, P s → P { s with script := sc }) {s t : State} (h : step s = .next t)
    (hs : P s) : P t := by
  rcases step_cases h with ⟨hq, hstep⟩ | ⟨_, rfl⟩ | ⟨_, i, rest, _, _, hexec⟩
  · exact kept.action s t hq hstep hs
  · exact hs
  · exact exec_keeps kept hexec (script s rest hs)

end Kept

/-! The quiescence invariant (R133). -/

/-- R133: the quiescence condition is that the decoder still waits for bytes (R101, R103). -/
theorem tryDecode_incomplete_iff {b : List Byte} : tryDecode b = .ok .incomplete ↔ Quiescent b := by
  constructor
  · intro h
    rcases tryDecode_cases b with ⟨hl, _⟩ | ⟨_, _, e⟩ | ⟨_, h0, hd, _⟩ | ⟨_, _, _, e⟩ | ⟨_, _, _, e⟩
    · exact .inl hl
    · rw [e] at h; cases h
    · exact .inr ⟨h0, hd⟩
    · rw [e] at h; cases h
    · rw [e] at h; cases h
  · intro h
    by_cases hl : b.length < 7
    · exact tryDecode_short hl
    · obtain ⟨h0, hd⟩ := h.resolve_left hl
      have h0' : b.head? = some Params.sync := h0
      simp [tryDecode_long (Nat.not_lt.1 hl), h0', hd]

theorem drainStep_rxInv {s t : State} (h : s.ctrl ≠ .q) (ht : drainStep s = .next t) : RxInv t := by
  rcases drainStep_inv h ht with ⟨_, hl, rfl⟩ | ⟨_, _, rfl⟩ | ⟨_, _, rfl⟩ | ⟨_, hf, rfl⟩ | ⟨k, _, hf, rfl⟩ |
    ⟨_, hd, rfl⟩ | ⟨r, _, hd, rfl⟩ | ⟨m, n, _, hd, rfl⟩
  · exact ⟨fun _ => .inl hl, nofun⟩
  · exact ⟨nofun, nofun⟩
  · exact ⟨fun _ => .inl (Nat.zero_lt_succ 6), nofun⟩
  · exact ⟨nofun, fun _ => firstSync_zero.1 hf⟩
  · exact ⟨nofun, nofun⟩
  · exact ⟨fun _ => tryDecode_incomplete_iff.1 hd, nofun⟩
  · exact ⟨nofun, nofun⟩
  · exact ⟨nofun, nofun⟩

theorem rxInv_keptByUpdates : KeptByUpdates RxInv where
  append _ _ _ _ _ := ⟨nofun, nofun⟩
  action _ _ hq hstep _ := drainStep_rxInv hq hstep
  respond _ _ h := h
  clear _ _ _ := ⟨fun _ => .inl (Nat.zero_lt_succ 6), nofun⟩

/-- Settles O32: each of the three actions that go to Q leaves a quiescent buffer (R121, R123, R126), and S2_AT_SYNC
goes to S3 with the sync byte first (R124). -/
theorem stepKeepsTheRxInvariant : Obligations.StepKeepsTheRxInvariant := by
  unfold Obligations.StepKeepsTheRxInvariant
  exact ⟨fun _ _ _ hs h => exec_keeps rxInv_keptByUpdates h hs,
    fun _ _ hs h => step_keeps rxInv_keptByUpdates (fun _ _ h => h) h hs⟩

/-! The buffer bound (R139). -/

theorem quiescent_length_le {b : List Byte} (h : Quiescent b) : b.length ≤ 65541 := by
  have hd := declaredLength_le b
  rcases h with h | ⟨_, h⟩ <;> omega

/-- R139 at Q follows from R133, so the bound to keep is the one that holds in every state. -/
theorem rxInv_bufBounded_iff {s : State} :
    RxInv s ∧ BufBounded s ↔ RxInv s ∧ s.buf.length ≤ Config.bufCap :=
  ⟨fun ⟨hr, hb, _⟩ => ⟨hr, hb⟩, fun ⟨hr, hb⟩ => ⟨hr, hb, fun hq => quiescent_length_le (hr.1 hq)⟩⟩

/-- R139: BUF_CAP is a quiescent buffer and a chunk. -/
theorem append_length_le_bufCap {b chunk : List Byte} (hb : b.length ≤ 65541)
    (hc : chunk.length ≤ Config.chunkMax) : b.length + chunk.length ≤ Config.bufCap := by
  unfold Config.bufCap
  omega

theorem bufBounded_keptByUpdates : KeptByUpdates fun s => RxInv s ∧ s.buf.length ≤ Config.bufCap where
  append chunk s hc hq h := by
    refine ⟨rxInv_keptByUpdates.append chunk s hc hq h.1, ?_⟩
    have hle := append_length_le_bufCap (quiescent_length_le (h.1.1 hq)) hc
    simpa [beginFeed] using hle
  action s t hq hstep h := by
    obtain ⟨k, _, hbuf⟩ := drainStep_buf hq hstep
    refine ⟨drainStep_rxInv hq hstep, ?_⟩
    rw [hbuf, List.length_drop]
    exact (Nat.sub_le _ _).trans h.2
  respond _ _ h := h
  clear s hq h := ⟨rxInv_keptByUpdates.clear s hq h.1, Nat.zero_le _⟩

/-- Settles O33: no action lengthens the buffer, and a FEED appends a chunk to a quiescent one. -/
theorem stepKeepsTheBufferBound : Obligations.StepKeepsTheBufferBound := by
  unfold Obligations.StepKeepsTheBufferBound
  refine ⟨fun i s t hr hb h => ?exec, fun s t hr hb h => ?step, fun chunk s hq hb hc => ?append⟩
  case exec =>
    exact (rxInv_bufBounded_iff.2 (exec_keeps bufBounded_keptByUpdates h (rxInv_bufBounded_iff.1 ⟨hr, hb⟩))).2
  case step =>
    exact (rxInv_bufBounded_iff.2
      (step_keeps bufBounded_keptByUpdates (fun _ _ h => h) h (rxInv_bufBounded_iff.1 ⟨hr, hb⟩))).2
  case append => exact append_length_le_bufCap (hb.2 hq) hc

/-! The common order of the logs (R32). -/

/-- R32: every position given out so far is below the next one. -/
theorem pos_lt_nextPos {s : State} (h : LogsInOrder s) :
    ∀ p ∈ s.msgLog.map (·.pos) ++ s.diagLog.map (·.pos), p < s.nextPos :=
  fun _ hp => List.mem_range.1 (h.2.2.mem_iff.1 hp)

/-- A rising list of positions below the next one rises with it at its end. -/
theorem pairwise_lt_append_singleton {l : List Nat} {n : Nat} (h : l.Pairwise (· < ·)) (hn : ∀ p ∈ l, p < n) :
    (l ++ [n]).Pairwise (· < ·) :=
  List.pairwise_append.2 ⟨h, List.pairwise_singleton _ _, by simpa using hn⟩

theorem logsInOrder_emitMsg {s : State} (h : LogsInOrder s) (m : Message) : LogsInOrder (s.emitMsg m) := by
  obtain ⟨hm, hd, hperm⟩ := h
  have hlt := pos_lt_nextPos ⟨hm, hd, hperm⟩
  refine ⟨?_, hd, ?_⟩
  · rw [emitMsg_msgLog, List.map_append]
    exact pairwise_lt_append_singleton hm fun p hp => hlt p (List.mem_append_left _ hp)
  · rw [emitMsg_msgLog, emitMsg_diagLog, emitMsg_nextPos, List.range_succ, List.map_append, List.append_assoc]
    exact (List.perm_append_comm.append_left _).trans (by simpa using hperm.append_right [s.nextPos])

theorem logsInOrder_emitDiag {s : State} (h : LogsInOrder s) (r : DiagReason) : LogsInOrder (s.emitDiag r) := by
  obtain ⟨hm, hd, hperm⟩ := h
  have hlt := pos_lt_nextPos ⟨hm, hd, hperm⟩
  refine ⟨hm, ?_, ?_⟩
  · rw [emitDiag_diagLog, List.map_append]
    exact pairwise_lt_append_singleton hd fun p hp => hlt p (List.mem_append_right _ hp)
  · rw [emitDiag_msgLog, emitDiag_diagLog, emitDiag_nextPos, List.range_succ, List.map_append, ← List.append_assoc]
    exact hperm.append_right _

/-- The common order is a matter of the two logs alone. -/
theorem logsInOrder_congr {s t : State} (h : LogsInOrder s) (hm : t.msgLog = s.msgLog) (hd : t.diagLog = s.diagLog) :
    LogsInOrder t := by
  simpa only [LogsInOrder, State.nextPos, hm, hd] using h

theorem logsInOrder_keptByUpdates : KeptByUpdates LogsInOrder where
  append _ _ _ _ h := h
  action _ _ hq hstep h := by
    rcases drainStep_logs hq hstep with ⟨hm, hd⟩ | ⟨hm, hd⟩ | ⟨m, _, hm, hd⟩
    · exact logsInOrder_congr h hm hd
    · exact logsInOrder_congr (logsInOrder_emitDiag h .frameInvalidBadCrc) hm hd
    · exact logsInOrder_congr (logsInOrder_emitMsg h m) hm hd
  respond _ _ h := h
  clear _ _ h := h

/-- Settles O34: an emitted record takes the next position, which is above all before it; nothing else writes a log. -/
theorem stepKeepsTheLogsInOrder : Obligations.StepKeepsTheLogsInOrder := by
  unfold Obligations.StepKeepsTheLogsInOrder
  exact ⟨fun _ _ _ hs h => exec_keeps logsInOrder_keptByUpdates h hs,
    fun _ _ hs h => step_keeps logsInOrder_keptByUpdates (fun _ _ h => h) h hs⟩

/-! The records of the message log (R22) and the growth of the logs (R23, R24). -/

theorem payloadsFit_keptByUpdates : KeptByUpdates PayloadsFit where
  append _ _ _ _ h := h
  action s t hq hstep h r hr := by
    rcases drainStep_logs hq hstep with ⟨hm, _⟩ | ⟨hm, _⟩ | ⟨m, hp, hm, _⟩ <;> rw [hm] at hr
    · exact h r hr
    · exact h r hr
    · rcases List.mem_append.1 hr with hr | hr
      · exact h r hr
      · rw [List.mem_singleton.1 hr]
        exact hp
  respond _ _ h := h
  clear _ _ h := h

/-- Settles O35: S3_EMIT's message has the payload of a declared length. -/
theorem stepKeepsPayloadsInSixteenBits : Obligations.StepKeepsPayloadsInSixteenBits := by
  unfold Obligations.StepKeepsPayloadsInSixteenBits
  exact ⟨fun _ _ _ hs h => exec_keeps payloadsFit_keptByUpdates h hs,
    fun _ _ hs h => step_keeps payloadsFit_keptByUpdates (fun _ _ h => h) h hs⟩

/-- Settles O36: at reset the buffer and the logs are empty. -/
theorem resetMeetsTheInvariants : Obligations.ResetMeetsTheInvariants := by
  unfold Obligations.ResetMeetsTheInvariants
  refine ⟨⟨fun _ => .inl (Nat.zero_lt_succ 6), nofun⟩, ⟨Nat.zero_le _, fun _ => Nat.zero_le _⟩,
    ⟨.nil, .nil, .refl _⟩, ?_⟩
  intro r hr
  cases hr

/-- The three lists of `t` continue those of `s` (R23, R24; log entry 3). -/
def Extends (s t : State) : Prop :=
  s.msgLog <+: t.msgLog ∧ s.diagLog <+: t.diagLog ∧ s.results <+: t.results

theorem extends_drainStep {s t : State} (h : s.ctrl ≠ .q) (ht : drainStep s = .next t) : Extends s t := by
  have hres : s.results <+: t.results := by rw [(drainStep_port h ht).1]
  rcases drainStep_logs h ht with ⟨hm, hd⟩ | ⟨hm, hd⟩ | ⟨m, _, hm, hd⟩ <;>
    exact ⟨by simp [hm], by simp [hd], hres⟩

theorem Extends.trans {s t u : State} (h : Extends s t) (h' : Extends t u) : Extends s u :=
  ⟨h.1.trans h'.1, h.2.1.trans h'.2.1, h.2.2.trans h'.2.2⟩

theorem extends_keptByUpdates (s : State) : KeptByUpdates (Extends s) where
  append _ _ _ _ h := h
  action _ _ hq hstep h := h.trans (extends_drainStep hq hstep)
  respond _ _ h := h.trans ⟨List.prefix_rfl, List.prefix_rfl, List.prefix_append _ _⟩
  clear _ _ h := h

/-- Settles O37: every update leaves the three lists or writes at their ends. -/
theorem logsOnlyGrow : Obligations.LogsOnlyGrow := by
  unfold Obligations.LogsOnlyGrow
  intro i s t h
  exact exec_keeps (extends_keptByUpdates s) h ⟨List.prefix_rfl, List.prefix_rfl, List.prefix_rfl⟩

/-! The access matrix (R33). -/

theorem script_keptByUpdates (sc : List Byte) : KeptByUpdates fun s => s.script = sc where
  append _ _ _ _ h := h
  action _ _ hq hstep h := (drainStep_port hq hstep).2.trans h
  respond _ _ h := h
  clear _ _ h := h

/-- R33: only S3_EMIT writes the message log, and only S3_DROP_FALSE_SYNC the diagnostic log. -/
theorem takeAction_logs {a : DrainAction} {s t : State} (h : takeAction a s = .next t) :
    (a ≠ .s3Emit → t.msgLog = s.msgLog) ∧ (a ≠ .s3DropFalseSync → t.diagLog = s.diagLog) := by
  have ha := enabledAction_of_takeAction h
  obtain ⟨hq, hstep⟩ := takeAction_next h
  rcases drainStep_cases hq with ⟨_, _, e, ht⟩ | ⟨_, _, e, ht⟩ | ⟨_, _, e, ht⟩ | ⟨_, _, e, ht⟩ | ⟨k, _, _, e, ht⟩ |
    ⟨_, _, e, ht⟩ | ⟨r, _, _, e, ht⟩ | ⟨m, n, _, _, e, ht⟩ <;> rw [e] at ha <;> cases ha <;> rw [ht] at hstep <;>
    cases hstep
  · exact ⟨fun _ => rfl, fun _ => rfl⟩
  · exact ⟨fun _ => rfl, fun _ => rfl⟩
  · exact ⟨fun _ => rfl, fun _ => rfl⟩
  · exact ⟨fun _ => rfl, fun _ => rfl⟩
  · exact ⟨fun _ => rfl, fun _ => rfl⟩
  · exact ⟨fun _ => rfl, fun _ => rfl⟩
  · exact ⟨fun _ => rfl, fun h => absurd rfl h⟩
  · exact ⟨fun h => absurd rfl h, fun _ => rfl⟩

/-- Settles O38: a query and RESET by their one next state, a drain action by the record it may emit. -/
theorem accessMatrix : Obligations.AccessMatrix := by
  unfold Obligations.AccessMatrix
  refine ⟨fun i s t h => ?script, fun ty q p b d s t h => ?query, fun s t h => ?reset, fun a s t h => ?action⟩
  case script => exact exec_keeps (script_keptByUpdates s.script) h rfl
  case query =>
    have frame {i : Instr} (hi : (∃ t q p, i = .encode t q p) ∨ (∃ b, i = .tryDecode b) ∨ ∃ d, i = .crc16 d)
        (h : exec i s = .next t) :
        t.buf = s.buf ∧ t.ctrl = s.ctrl ∧ t.msgLog = s.msgLog ∧ t.diagLog = s.diagLog := by
      rcases exec_query hi with ⟨r, e⟩ | ⟨_, e⟩ <;> rw [e] at h <;> cases h
      exact ⟨rfl, rfl, rfl, rfl⟩
    rcases h with h | h | h
    · exact frame (.inl ⟨_, _, _, rfl⟩) h
    · exact frame (.inr (.inl ⟨_, rfl⟩)) h
    · exact frame (.inr (.inr ⟨_, rfl⟩)) h
  case reset =>
    by_cases hq : s.ctrl = .q
    · rw [resetDropsThePartialBuffer s hq] at h
      cases h
      exact ⟨rfl, rfl⟩
    · have e : exec .reset s = _ := execReset_off hq
      rw [e] at h
      cases h
  case action =>
    rw [exec_actionInstr] at h
    obtain ⟨hq, hstep⟩ := takeAction_next h
    exact ⟨(drainStep_port hq hstep).1, takeAction_logs h⟩

end Sys2Proof.Machine
end

section
/-! PROOFS. The decoder against the encoder (41_encoder.md R94, 42_decoder.md R111, 30_encoding.md R60 to R72): round
trips, stability under extension, and reading back the bytes of every instruction. -/

namespace Sys2Proof.Machine

/-! Stability (R111): a decision reads the bytes of the candidate only. -/

section Extension

variable {b : List Byte} {n : Nat} (x : List Byte) (h : 7 + n ≤ b.length)
include h

theorem candidateMessage_append : candidateMessage (b ++ x) n = candidateMessage b n := by
  have h3 : (b ++ x)[3]? = b[3]? := List.getElem?_append_left (by omega)
  have h4 : (b ++ x)[4]? = b[4]? := List.getElem?_append_left (by omega)
  have hp : ((b ++ x).drop 5).take n = (b.drop 5).take n := by
    rw [List.drop_append_of_le_length (by omega), List.take_append_of_le_length (by simp; omega)]
  simp only [candidateMessage, List.getD_eq_getElem?_getD, h3, h4, hp]

theorem candidateCrc_append : candidateCrc (b ++ x) n = candidateCrc b n := by
  have h5 : (b ++ x)[5 + n]? = b[5 + n]? := List.getElem?_append_left (by omega)
  have h6 : (b ++ x)[6 + n]? = b[6 + n]? := List.getElem?_append_left (by omega)
  simp only [candidateCrc, List.getD_eq_getElem?_getD, h5, h6]

end Extension

theorem head?_append_of_le {b : List Byte} (x : List Byte) (h : 7 ≤ b.length) : (b ++ x).head? = b.head? :=
  List.head?_append_of_ne_nil _ (List.ne_nil_of_length_pos (by omega))

/-- R111: an outcome that is not Incomplete stays when more bytes follow. -/
theorem tryDecode_append {b : List Byte} {o : DecodeOutcome} (h : tryDecode b = .ok o) (ho : o ≠ .incomplete)
    (x : List Byte) : tryDecode (b ++ x) = .ok o := by
  have hl : 7 ≤ b.length := by
    by_contra hlt
    rw [tryDecode_short (Nat.not_le.1 hlt)] at h
    cases h
    exact ho rfl
  rw [← h, tryDecode_long (by simp; omega), tryDecode_long hl, head?_append_of_le x hl,
    declaredLength_append x (by omega)]
  by_cases h0 : b.head? = some Params.sync
  · by_cases hd : b.length < 7 + declaredLength b
    · exact absurd (Except.ok.inj ((tryDecode_incomplete_iff.2 (.inr ⟨h0, hd⟩)).symm.trans h)).symm ho
    · have hd' : 7 + declaredLength b ≤ b.length := Nat.not_lt.1 hd
      have hdx : ¬ (b ++ x).length < 7 + declaredLength b := by simp; omega
      simp only [h0, hd, hdx, candidateCrc_append x hd', candidateMessage_append x hd', if_false]
  · simp only [h0, ne_eq, not_false_eq_true, if_true]

/-- Settles O29: the decided outcomes by the bytes they read, Incomplete by the quiescence condition it is. -/
theorem outcomesAreStableUnderExtension : Obligations.OutcomesAreStableUnderExtension := by
  unfold Obligations.OutcomesAreStableUnderExtension
  intro b x o h
  refine ⟨fun ho => tryDecode_append h ho x, fun ho hl => ?_⟩
  subst ho
  obtain ⟨h0, _⟩ := (tryDecode_incomplete_iff.1 h).resolve_left (Nat.not_lt.2 hl)
  rw [← List.head?_eq_getElem?]
  exact h0

/-! Round trips (R94). -/

/-- R94: the decoder reads a frame back, whatever follows it. -/
theorem tryDecode_frameBytes (t q : Byte) {p : List Byte} (hp : p.length ≤ 65535) (x : List Byte) :
    tryDecode (frameBytes t q p ++ x) = .ok (.decoded { type := t, seq := q, payload := p } (7 + p.length)) := by
  have hlen : ¬ (frameBytes t q p ++ x).length < 7 + p.length := by simp
  rw [tryDecode_long (by simp; omega), declaredLength_frameBytes t q x hp, candidateMessage_frameBytes,
    candidateCrc_frameBytes]
  simp only [frameBytes_head, hlen, ne_eq, not_true_eq_false, if_false]

/-- Settles O28: ENCODE returns the frame of its operands, and the decoder reads it back. -/
theorem encodeThenTryDecodeRoundTrips : Obligations.EncodeThenTryDecodeRoundTrips := by
  unfold Obligations.EncodeThenTryDecodeRoundTrips
  intro t q p x s hp
  have ht := (byteAdmitted_iff _).1 (byteAdmitted_toNat t)
  have hq := (byteAdmitted_iff _).1 (byteAdmitted_toNat q)
  refine ⟨frameBytes t q p, ?encode, frameBytes_length t q p, ?decode⟩
  case encode =>
    rw [exec_encode, execEncode_frame ht hq hp, byteOf_toNat, byteOf_toNat]
    rfl
  case decode =>
    rw [exec_tryDecode, execTryDecode_of_ok (tryDecode_frameBytes t q hp x)]
    rfl

/-- An integer that the port admits is read back from its byte (R70, R72). -/
theorem toNat_byteOf {v : Int} (h : 0 ≤ v ∧ v ≤ 255) : ((byteOf v).toNat : Int) = v := by
  obtain ⟨n, rfl⟩ := Int.eq_ofNat_of_zero_le h.1
  have hn : n < 256 := by omega
  simp [byteOf, Nat.mod_eq_of_lt hn]

end Sys2Proof.Machine

namespace Sys2Proof

/-- A command of one byte-sequence operand is read back (R72). -/
theorem readBlockInstr_blockBytes {p : List Byte} (h : p.length < 4294967296) (make : List Byte → Instr)
    (rest : List Byte) : readBlockInstr make (blockBytes p ++ rest) = .ok (make p, rest) := by
  simp [readBlockInstr, readBlock_blockBytes h]

/-- ENCODE's operands are read back (R72). -/
theorem readEncode_blockBytes {t q : Int} (ht : 0 ≤ t ∧ t ≤ 255) (hq : 0 ≤ q ∧ q ≤ 255) {p : List Byte}
    (h : p.length < 4294967296) (rest : List Byte) :
    readEncode (Machine.byteOf t :: Machine.byteOf q :: (blockBytes p ++ rest)) = .ok (.encode t q p, rest) := by
  simp [readEncode, readBlock_blockBytes h, Machine.toNat_byteOf ht, Machine.toNat_byteOf hq]

/-- R66: a type field is read as a named row if it has one of the six codes, and as opaque otherwise. -/
theorem typeFieldInstr_of_opaque {v : Byte} (h : v ∉ Params.namedTypes) : typeFieldInstr v = .typeOpaque v := by
  have hne (k : Nat) (hk : BitVec.ofNat 8 k ∈ Params.namedTypes) : v.toNat ≠ k := by
    rintro rfl
    rw [BitVec.ofNat_toNat, BitVec.setWidth_eq] at hk
    exact h hk
  have h1 := hne 1 (by decide)
  have h2 := hne 2 (by decide)
  have h3 := hne 3 (by decide)
  have h4 := hne 4 (by decide)
  have h5 := hne 5 (by decide)
  have h16 := hne 16 (by decide)
  unfold typeFieldInstr
  split
  case h_7 => rfl -- any code but the six
  all_goals contradiction

/-- The frame on the wire is read back, whatever follows it (R60, R94). -/
theorem decodeWire_frameBytes (t q : Byte) {p : List Byte} (h : p.length ≤ 65535) (rest : List Byte) :
    decodeWire (Machine.frameBytes t q p ++ rest) = .ok (.frame t q p, rest) := by
  have hdrop : (Machine.frameBytes t q p ++ rest).drop (7 + p.length) = rest :=
    List.drop_left' (Machine.frameBytes_length t q p)
  simp [decodeWire, Machine.tryDecode_frameBytes t q h rest, hdrop]

/-- Settles O26: per row of the table, its operand form read back behind its selector (R72), its type code (R66), or
its frame (R60). -/
theorem decodeReadsBackEncode : Obligations.DecodeReadsBackEncode := by
  unfold Obligations.DecodeReadsBackEncode
  intro i rest hw hs
  cases i with
  | feed chunk => exact readBlockInstr_blockBytes (of_decide_eq_true hs) .feed rest
  | tryDecode bytes => exact readBlockInstr_blockBytes (of_decide_eq_true hs) .tryDecode rest
  | crc16 data => exact readBlockInstr_blockBytes (of_decide_eq_true hs) .crc16 rest
  | encode type seq payload =>
    obtain ⟨ht, ht', hq, hq'⟩ := of_decide_eq_true hw
    exact readEncode_blockBytes ⟨ht, ht'⟩ ⟨hq, hq'⟩ (of_decide_eq_true hs) rest
  | typeOpaque value => exact congrArg (fun i => Except.ok (i, rest)) (typeFieldInstr_of_opaque (of_decide_eq_true hw))
  | frame type seq payload => exact decodeWire_frameBytes type seq (of_decide_eq_true hw) rest
  | _ => rfl -- a row without operands: its one byte selects it

/-- Settles O27: ENCODE and FEED by reading back their bytes; a selector and a type code by their rows; the frame by
its CRC. -/
theorem writtenOutWordsDecode : Obligations.WrittenOutWordsDecode := by
  unfold Obligations.WrittenOutWordsDecode
  refine ⟨rfl, rfl, rfl, rfl, ?frame⟩
  case frame =>
    have hframe : Machine.frameBytes 0x01 0x05 [] = [0xAA, 0x00, 0x00, 0x01, 0x05, 0x9B, 0x7E] := by decide +kernel
    have hread := decodeWire_frameBytes 0x01 0x05 (p := []) (Nat.zero_le _) [0x11]
    rw [hframe] at hread
    exact hread

end Sys2Proof
end

section
/-! PROOFS. The CRC-16 generator (40_crc.md R83, R85, R86): the bit-serial form, the polynomial remainder, and the CRC
of a concatenation. -/

namespace Sys2Proof.Machine

/-- Settles O8: the CRC is a fold over the bytes, and its final step is the identity (R81). -/
theorem crcIsIncremental : Obligations.CrcIsIncremental := by
  unfold Obligations.CrcIsIncremental
  intro a b
  exact List.foldl_append

/-! The bit-serial form (R83). -/

/-- A byte in bits 15..8 of the register, where R82 puts it. -/
def inHighByte (b : Byte) : Word16 := b.zeroExtend 16 <<< 8

theorem crcUpdate_eq (c : Word16) (b : Byte) : crcUpdate c b = crcShifts 8 (c ^^^ inHighByte b) := rfl

theorem getLsbD_inHighByte (b : Byte) (i : Nat) :
    (inHighByte b).getLsbD i = (decide (8 ≤ i) && b.getLsbD (i - 8)) := by
  by_cases hi : i < 16
  · by_cases h8 : i < 8
    · simp [inHighByte, h8, Nat.not_le.2 h8]
    · simp [inHighByte, h8, hi, Nat.not_lt.1 h8]
  · have hb : b.getLsbD (i - 8) = false := BitVec.getLsbD_of_ge b _ (by omega)
    simp [hb, BitVec.getLsbD_of_ge (inHighByte b) i (by omega)]

theorem toNat_inHighByte (b : Byte) : (inHighByte b).toNat = 256 * b.toNat := by
  have hb := b.isLt
  simp only [inHighByte, BitVec.truncate_eq_setWidth, BitVec.toNat_shiftLeft, BitVec.toNat_setWidth, Nat.shiftLeft_eq]
  omega

/-- Shifting the register moves the byte's top bit out and the byte up. -/
theorem inHighByte_shiftLeft (b : Byte) : inHighByte b <<< 1 = inHighByte (b <<< 1) := by
  apply BitVec.eq_of_toNat_eq
  simp only [BitVec.toNat_shiftLeft, toNat_inHighByte, Nat.shiftLeft_eq]
  omega

/-- R82 against R83: one shift of a register that holds the whole byte takes in the byte's top bit, and the rest of the
byte stays in the register's high byte. -/
theorem crcShift_xor_inHighByte (c : Word16) (b : Byte) :
    crcShift (c ^^^ inHighByte b) = crcUpdateBit c (b.getLsbD 7) ^^^ inHighByte (b <<< 1) := by
  have htop : (c ^^^ inHighByte b).getLsbD 15 = (c.getLsbD 15).xor (b.getLsbD 7) := by
    rw [BitVec.getLsbD_xor, getLsbD_inHighByte]
    rfl
  simp only [crcShift, crcUpdateBit, htop, BitVec.shiftLeft_xor_distrib, inHighByte_shiftLeft]
  split
  · ac_rfl
  · rfl

/-- The top bits of a byte as it is shifted up, one for each of `k` shifts. -/
def topBits : Nat → Byte → List Bool
  | 0, _ => []
  | k + 1, b => b.getLsbD 7 :: topBits k (b <<< 1)

/-- R83 against R82 after any number of shifts. -/
theorem crcShifts_xor_inHighByte (k : Nat) (c : Word16) (b : Byte) :
    crcShifts k (c ^^^ inHighByte b) = (topBits k b).foldl crcUpdateBit c ^^^ inHighByte (b <<< k) := by
  induction k generalizing c b with
  | zero => simp [crcShifts, topBits]
  | succ k ih =>
    rw [crcShifts, crcShift_xor_inHighByte, ih, topBits, List.foldl_cons, ← BitVec.shiftLeft_add, Nat.add_comm 1 k]

/-- Settles O9: after eight shifts the byte is out of the register, and its bits went in from bit 7 down. -/
theorem bitSerialCrcIsTheByteWiseCrc : Obligations.BitSerialCrcIsTheByteWiseCrc := by
  unfold Obligations.BitSerialCrcIsTheByteWiseCrc
  intro c b
  have hout : inHighByte (b <<< 8) = 0#16 := by
    apply BitVec.eq_of_toNat_eq
    simp [toNat_inHighByte]
  have hbits : topBits 8 b = [b.getLsbD 7, b.getLsbD 6, b.getLsbD 5, b.getLsbD 4, b.getLsbD 3, b.getLsbD 2,
      b.getLsbD 1, b.getLsbD 0] := by
    simp [topBits]
  rw [crcUpdate_eq, crcShifts_xor_inHighByte, hout, hbits, crcUpdateSerial, BitVec.xor_zero]

/-! The polynomial remainder (R85). -/

/-- The generator of R80 over GF(2). -/
noncomputable def crcGenerator : Polynomial (ZMod 2) :=
  Polynomial.X ^ 16 + Polynomial.X ^ 12 + Polynomial.X ^ 5 + 1

theorem coeff_polyOfBits {w : Nat} (v : BitVec w) (i : Nat) :
    (polyOfBits v).coeff i = if v.getLsbD i then 1 else 0 := by
  by_cases hi : i < w
  · rw [polyOfBits, Polynomial.finsetSum_coeff, Finset.sum_eq_single i]
    · split <;> simp
    · intro j _ hj
      split <;> simp [Polynomial.coeff_X_pow, hj.symm]
    · simp [hi]
  · rw [BitVec.getLsbD_of_ge v i (Nat.not_lt.1 hi), polyOfBits, Polynomial.finsetSum_coeff]
    refine Finset.sum_eq_zero fun j hj => ?_
    have hne : i ≠ j := by
      have := Finset.mem_range.1 hj
      omega
    split <;> simp [Polynomial.coeff_X_pow, hne]

theorem polyOfBits_xor {w : Nat} (u v : BitVec w) : polyOfBits (u ^^^ v) = polyOfBits u + polyOfBits v := by
  ext i
  rw [Polynomial.coeff_add, coeff_polyOfBits, coeff_polyOfBits, coeff_polyOfBits, BitVec.getLsbD_xor]
  cases u.getLsbD i <;> cases v.getLsbD i <;> decide

theorem degree_polyOfBits_lt {w : Nat} (v : BitVec w) : (polyOfBits v).degree < w := by
  rw [Polynomial.degree_lt_iff_coeff_zero]
  intro i hi
  rw [coeff_polyOfBits, BitVec.getLsbD_of_ge v i hi]
  rfl

/-- A shift multiplies by `x`, but for the bit that leaves the register. -/
theorem polyOfBits_shiftLeft (c : Word16) :
    polyOfBits (c <<< 1) + (if c.getLsbD 15 then Polynomial.X ^ 16 else 0) = Polynomial.X * polyOfBits c := by
  ext i
  cases i with
  | zero => split <;> simp [coeff_polyOfBits]
  | succ i =>
    have hkept : (c <<< 1).getLsbD (i + 1) = (decide (i < 15) && c.getLsbD i) := by
      simp [BitVec.getLsbD_shiftLeft, show i + 1 < 16 ↔ i < 15 by omega]
    have hout : (if c.getLsbD 15 then Polynomial.X ^ 16 else 0 : Polynomial (ZMod 2)).coeff (i + 1) =
        if i = 15 ∧ c.getLsbD 15 then 1 else 0 := by
      cases c.getLsbD 15 <;> simp [Polynomial.coeff_X_pow]
    rw [Polynomial.coeff_X_mul, Polynomial.coeff_add, coeff_polyOfBits, coeff_polyOfBits, hkept, hout]
    rcases Nat.lt_trichotomy i 15 with hi | rfl | hi
    · simp [hi, hi.ne]
    · simp
    · simp [hi.ne', Nat.not_lt.2 hi.le, BitVec.getLsbD_of_ge c i hi]

theorem polyOfBits_inHighByte (b : Byte) : polyOfBits (inHighByte b) = Polynomial.X ^ 8 * polyOfBits b := by
  ext i
  rw [Polynomial.coeff_X_pow_mul', coeff_polyOfBits, getLsbD_inHighByte, coeff_polyOfBits]
  by_cases h8 : 8 ≤ i <;> simp [h8]

theorem polyOfBits_crcPoly :
    polyOfBits Params.crcPoly = Polynomial.X ^ 12 + Polynomial.X ^ 5 + 1 := by
  simp [polyOfBits, Params.crcPoly, Finset.sum_range_succ]
  ring

theorem monic_crcGenerator : crcGenerator.Monic := by
  unfold crcGenerator
  monicity!

theorem degree_crcGenerator : crcGenerator.degree = 16 := by
  unfold crcGenerator
  compute_degree!

/-- The residue of a polynomial by the generator. -/
noncomputable def residue : Polynomial (ZMod 2) →+* AdjoinRoot crcGenerator := AdjoinRoot.mk crcGenerator

/-- One shift of R82 multiplies the register by `x`, modulo the generator. -/
theorem residue_crcShift (c : Word16) :
    residue (polyOfBits (crcShift c)) = residue Polynomial.X * residue (polyOfBits c) := by
  rw [← map_mul, ← polyOfBits_shiftLeft]
  cases h15 : c.getLsbD 15 with
  | false => simp only [crcShift, h15, Bool.false_eq_true, if_false, add_zero]
  | true =>
    have hshift : polyOfBits (crcShift c) =
        polyOfBits (c <<< 1) + (Polynomial.X ^ 12 + Polynomial.X ^ 5 + 1) := by
      rw [← polyOfBits_crcPoly, ← polyOfBits_xor, crcShift, if_pos h15]
    refine AdjoinRoot.mk_eq_mk.2 (dvd_of_eq ?_)
    rw [hshift, if_pos rfl, CharTwo.sub_eq_add, crcGenerator, add_add_add_comm, CharTwo.add_self_eq_zero]
    ring

theorem residue_crcShifts (k : Nat) (c : Word16) :
    residue (polyOfBits (crcShifts k c)) = residue Polynomial.X ^ k * residue (polyOfBits c) := by
  induction k generalizing c with
  | zero => simp [crcShifts]
  | succ k ih =>
    rw [crcShifts, ih, residue_crcShift]
    ring

/-- One byte of R82. -/
theorem residue_crcUpdate (c : Word16) (b : Byte) :
    residue (polyOfBits (crcUpdate c b)) =
      residue Polynomial.X ^ 8 * residue (polyOfBits c) + residue Polynomial.X ^ 16 * residue (polyOfBits b) := by
  rw [crcUpdate_eq, residue_crcShifts, polyOfBits_xor, polyOfBits_inHighByte]
  simp only [map_add, map_mul, map_pow]
  ring

/-- The register after a byte sequence, from any start. -/
theorem residue_foldl_crcUpdate (data : List Byte) (c : Word16) :
    residue (polyOfBits (data.foldl crcUpdate c)) =
      residue (polyOfBytes data * Polynomial.X ^ 16 + polyOfBits c * Polynomial.X ^ (8 * data.length)) := by
  induction data generalizing c with
  | nil => simp [polyOfBytes]
  | cons b bs ih =>
    rw [List.foldl_cons, ih]
    simp only [polyOfBytes, map_add, map_mul, map_pow, residue_crcUpdate, List.length_cons]
    ring

/-- Settles O10: the register's polynomial has degree below 16 and differs from the shifted data by a multiple of the
generator, so it is the remainder. -/
theorem crcIsThePolynomialRemainder : Obligations.CrcIsThePolynomialRemainder := by
  unfold Obligations.CrcIsThePolynomialRemainder
  intro data
  have hres := residue_foldl_crcUpdate data Params.crcInit
  have hself : polyOfBits (crc16 data) %ₘ crcGenerator = polyOfBits (crc16 data) := by
    rw [Polynomial.modByMonic_eq_self_iff monic_crcGenerator, degree_crcGenerator]
    exact degree_polyOfBits_lt _
  rw [← hself]
  exact Polynomial.modByMonic_eq_of_dvd_sub monic_crcGenerator (AdjoinRoot.mk_eq_mk.1 hres)

end Sys2Proof.Machine
end

section
/-! PROOFS. Single-bit errors (42_decoder.md R112): where a flipped bit falls in a frame, and that the CRC of a byte
sequence changes with any one of its bits. -/

namespace Sys2Proof.Machine

/-! A flipped bit and the parts of a byte sequence. -/

theorem flipBit_cons_lt (b : Byte) (bs : List Byte) {i : Nat} (h : i < 8) :
    flipBit (b :: bs) i = (b ^^^ BitVec.twoPow 8 i) :: bs := by
  simp [flipBit, Nat.div_eq_of_lt h, Nat.mod_eq_of_lt h]

theorem flipBit_cons_add (b : Byte) (bs : List Byte) (i : Nat) : flipBit (b :: bs) (8 + i) = b :: flipBit bs i := by
  simp [flipBit, Nat.add_div_left]

@[simp] theorem flipBit_length (b : List Byte) (i : Nat) : (flipBit b i).length = b.length :=
  List.length_modify ..

theorem flipBit_append_lt {a : List Byte} (x : List Byte) {i : Nat} (h : i < 8 * a.length) :
    flipBit (a ++ x) i = flipBit a i ++ x := by
  induction a generalizing i with
  | nil => simp at h
  | cons b bs ih =>
    by_cases hi : i < 8
    · rw [List.cons_append, flipBit_cons_lt _ _ hi, flipBit_cons_lt _ _ hi, List.cons_append]
    · obtain ⟨j, rfl⟩ := Nat.exists_eq_add_of_le (Nat.not_lt.1 hi)
      rw [List.cons_append, flipBit_cons_add, flipBit_cons_add, List.cons_append,
        ih (by rw [List.length_cons] at h; omega)]

theorem flipBit_append_add (a x : List Byte) (i : Nat) : flipBit (a ++ x) (8 * a.length + i) = a ++ flipBit x i := by
  induction a with
  | nil => simp
  | cons b bs ih =>
    rw [List.length_cons, Nat.mul_succ, Nat.add_comm _ 8, Nat.add_assoc, List.cons_append, flipBit_cons_add, ih,
      List.cons_append]

theorem xor_twoPow_ne {w : Nat} (v : BitVec w) {k : Nat} (h : k < w) : v ^^^ BitVec.twoPow w k ≠ v := by
  intro e
  have hbit := congrArg (·.getLsbD k) e
  simp [h] at hbit

/-- A byte of a word with one bit flipped: that byte with its bit flipped, if the bit is in it. -/
theorem extractLsb'_xor_twoPow (v : Word16) (start : Nat) {k : Nat} (h : k < 16) :
    (v ^^^ BitVec.twoPow 16 k).extractLsb' start 8 =
      if start ≤ k ∧ k < start + 8 then v.extractLsb' start 8 ^^^ BitVec.twoPow 8 (k - start)
      else v.extractLsb' start 8 := by
  apply BitVec.eq_of_getLsbD_eq
  intro i hi
  have hbit : (k = start + i) ↔ (start ≤ k ∧ k < start + 8) ∧ k - start = i := by omega
  split
  case isTrue hin => simp [BitVec.getLsbD_twoPow, hi, h, hbit, hin]; omega
  case isFalse hout => simp [BitVec.getLsbD_twoPow, hi, h, hbit, hout]

/-- A bit of a little-endian pair is the bit of the word with the same number (R42). -/
theorem flipBit_le16 (v : Word16) {k : Nat} (h : k < 16) : flipBit (le16 v) k = le16 (v ^^^ BitVec.twoPow 16 k) := by
  rw [le16_eq, le16_eq, extractLsb'_xor_twoPow v 0 h, extractLsb'_xor_twoPow v 8 h]
  by_cases hk : k < 8
  · rw [flipBit_cons_lt _ _ hk, if_pos (by omega), if_neg (by omega), Nat.sub_zero]
  · obtain ⟨j, rfl⟩ := Nat.exists_eq_add_of_le (Nat.not_lt.1 hk)
    rw [flipBit_cons_add, flipBit_cons_lt _ _ (by omega), if_neg (by omega), if_pos (by omega), Nat.add_sub_cancel_left]

/-! The CRC and a flipped bit. -/

theorem crcShifts_injective {k : Nat} {c d : Word16} (h : crcShifts k c = crcShifts k d) : c = d := by
  rw [← BitVec.xor_eq_zero_iff, ← crcShifts_xor] at h
  exact BitVec.xor_eq_zero_iff.1 (crcShifts_eq_zero h)

theorem foldl_crcUpdate_injective {data : List Byte} {c d : Word16}
    (h : data.foldl crcUpdate c = data.foldl crcUpdate d) : c = d := by
  induction data generalizing c d with
  | nil => exact h
  | cons b bs ih =>
    have e := crcShifts_injective (ih h)
    exact (BitVec.xor_left_inj _).1 e

theorem inHighByte_injective {a b : Byte} (h : inHighByte a = inHighByte b) : a = b := by
  have hn := congrArg BitVec.toNat h
  rw [toNat_inHighByte, toNat_inHighByte] at hn
  exact BitVec.eq_of_toNat_eq (Nat.eq_of_mul_eq_mul_left (by decide) hn)

/-- A register absorbs a byte sequence differently when one of its bits is flipped. -/
theorem foldl_crcUpdate_flipBit_ne {data : List Byte} {i : Nat} (h : i < 8 * data.length) (c : Word16) :
    (flipBit data i).foldl crcUpdate c ≠ data.foldl crcUpdate c := by
  induction data generalizing i c with
  | nil => simp at h
  | cons b bs ih =>
    by_cases hi : i < 8
    · rw [flipBit_cons_lt _ _ hi]
      intro e
      have hb := (BitVec.xor_right_inj _).1 (crcShifts_injective (foldl_crcUpdate_injective e))
      exact xor_twoPow_ne b hi (inHighByte_injective hb)
    · obtain ⟨j, rfl⟩ := Nat.exists_eq_add_of_le (Nat.not_lt.1 hi)
      rw [flipBit_cons_add]
      exact ih (by rw [List.length_cons] at h; omega) _

/-- R112: the CRC of a byte sequence changes with any one of its bits. -/
theorem crc16_flipBit_ne {data : List Byte} {i : Nat} (h : i < 8 * data.length) :
    crc16 (flipBit data i) ≠ crc16 data :=
  foldl_crcUpdate_flipBit_ne h Params.crcInit

/-! Frames of any length field, body and trailer. -/

/-- A frame with its length field and CRC field as they are written, whatever they say. -/
def rawFrame (n : Word16) (body : List Byte) (crc : Word16) : List Byte :=
  [Params.sync] ++ (le16 n ++ (body ++ le16 crc))

theorem frameBytes_eq_rawFrame (t q : Byte) (p : List Byte) :
    frameBytes t q p = rawFrame (BitVec.ofNat 16 p.length) ([t, q] ++ p) (crc16 ([t, q] ++ p)) := by
  simp [frameBytes, rawFrame]

theorem rawFrame_length (n : Word16) (body : List Byte) (crc : Word16) :
    (rawFrame n body crc).length = 5 + body.length := by
  simp [rawFrame]; omega

theorem declaredLength_rawFrame (n : Word16) (body : List Byte) (crc : Word16) :
    declaredLength (rawFrame n body crc) = n.toNat := by
  have e : declaredLength (rawFrame n body crc) = (n.extractLsb' 0 8).toNat + 256 * (n.extractLsb' 8 8).toNat := rfl
  rw [e, ← word16_toNat, word16_le16]

/-- The CRC field is the last two bytes of a candidate (R64). -/
theorem candidateCrc_append_le16 {a : List Byte} {n : Nat} (crc : Word16) (h : a.length = 5 + n) :
    candidateCrc (a ++ le16 crc) n = crc.toNat := by
  have h5 : (a ++ le16 crc)[5 + n]? = some (crc.extractLsb' 0 8) := by simp [← h, le16]
  have h6 : (a ++ le16 crc)[6 + n]? = some (crc.extractLsb' 8 8) := by
    rw [show 6 + n = a.length + 1 by omega]
    simp [le16]
  rw [candidateCrc, List.getD_eq_getElem?_getD, List.getD_eq_getElem?_getD, h5, h6, Option.getD_some, Option.getD_some,
    ← word16_toNat, word16_le16]

/-- R104: a whole candidate whose CRC field is not the CRC of its body is rejected. -/
theorem tryDecode_rawFrame_badCrc {n : Word16} {body : List Byte} {crc : Word16} (hb : body.length = 2 + n.toNat)
    (hne : crc ≠ crc16 body) : tryDecode (rawFrame n body crc) = .ok (.invalid .badCrc) := by
  obtain ⟨t, q, p, rfl⟩ : ∃ t q p, body = t :: q :: p := by
    match body, hb with
    | t :: q :: p, _ => exact ⟨t, q, p, rfl⟩
    | [_], hb => simp at hb; omega
    | [], hb => simp at hb; omega
  have hp : p.length = n.toNat := by
    simp only [List.length_cons] at hb
    omega
  have hm : candidateMessage (rawFrame n (t :: q :: p) crc) n.toNat = { type := t, seq := q, payload := p } := by
    simp [candidateMessage, rawFrame, le16, ← hp]
  have hc : candidateCrc (rawFrame n (t :: q :: p) crc) n.toNat = crc.toNat := by
    have e := candidateCrc_append_le16 (a := [Params.sync] ++ (le16 n ++ (t :: q :: p))) (n := n.toNat) crc
      (by simp [hp]; omega)
    simpa [rawFrame] using e
  have h0 : (rawFrame n (t :: q :: p) crc).head? = some Params.sync := rfl
  have hlen : ¬ (rawFrame n (t :: q :: p) crc).length < 7 + n.toNat := by
    rw [rawFrame_length, hb]
    omega
  have hcrc : crc.toNat ≠ (messageCrc { type := t, seq := q, payload := p }).toNat :=
    fun e => hne (BitVec.eq_of_toNat_eq e)
  rw [tryDecode_long (by rw [rawFrame_length, hb]; omega), declaredLength_rawFrame, hm, hc, if_neg (not_not.2 h0),
    if_neg hlen, if_pos hcrc]

/-! The parts of a frame that a flipped bit can fall in (R112). -/

section Flip

variable (n : Word16) (body : List Byte) (crc : Word16)

theorem flipBit_rawFrame_sync {i : Nat} (hi : i < 8) :
    flipBit (rawFrame n body crc) i = (Params.sync ^^^ BitVec.twoPow 8 i) :: (le16 n ++ (body ++ le16 crc)) :=
  flipBit_cons_lt _ _ hi

theorem flipBit_rawFrame_length {k : Nat} (hk : k < 16) :
    flipBit (rawFrame n body crc) (8 + k) = rawFrame (n ^^^ BitVec.twoPow 16 k) body crc := by
  rw [rawFrame, List.singleton_append, flipBit_cons_add, flipBit_append_lt _ (by simpa using hk), flipBit_le16 n hk]
  rfl

theorem flipBit_rawFrame_body {j : Nat} (hj : j < 8 * body.length) :
    flipBit (rawFrame n body crc) (24 + j) = rawFrame n (flipBit body j) crc := by
  rw [rawFrame, ← List.append_assoc, show 24 = 8 * ([Params.sync] ++ le16 n).length from rfl, flipBit_append_add,
    flipBit_append_lt _ hj, List.append_assoc]
  rfl

theorem flipBit_rawFrame_crc {k : Nat} (hk : k < 16) :
    flipBit (rawFrame n body crc) (24 + (8 * body.length + k)) = rawFrame n body (crc ^^^ BitVec.twoPow 16 k) := by
  rw [rawFrame, ← List.append_assoc, show 24 = 8 * ([Params.sync] ++ le16 n).length from rfl, flipBit_append_add,
    flipBit_append_add, flipBit_le16 crc hk, List.append_assoc]
  rfl

end Flip

/-- Setting a bit makes a number larger, clearing it smaller. -/
theorem lt_xor_two_pow {n k : Nat} (h : n.testBit k = false) : n < n ^^^ 2 ^ k :=
  Nat.lt_of_testBit k h (by simp [h]) fun j hj => by simp [hj.ne]

theorem xor_two_pow_lt {n k : Nat} (h : n.testBit k = true) : n ^^^ 2 ^ k < n :=
  Nat.lt_of_testBit k (by simp [h]) h fun j hj => by simp [hj.ne]

theorem toNat_xor_twoPow (v : Word16) {k : Nat} (hk : k < 16) :
    (v ^^^ BitVec.twoPow 16 k).toNat = v.toNat ^^^ 2 ^ k := by
  rw [BitVec.toNat_xor, BitVec.toNat_twoPow, Nat.mod_eq_of_lt (Nat.pow_lt_pow_right (by decide) hk)]

/-- A candidate that declares more bytes than it has is incomplete (R103). -/
theorem tryDecode_rawFrame_incomplete {n : Word16} {body : List Byte} {crc : Word16}
    (hb : body.length < 2 + n.toNat) : tryDecode (rawFrame n body crc) = .ok .incomplete := by
  refine tryDecode_incomplete_iff.2 (.inr ⟨rfl, ?_⟩)
  rw [rawFrame_length, declaredLength_rawFrame]
  omega

/-- A candidate that declares fewer bytes than it has is rejected or decoded with the declared count (R104, R105). -/
theorem tryDecode_rawFrame_of_lt {n : Word16} {body : List Byte} {crc : Word16} (hb : 2 + n.toNat < body.length) :
    tryDecode (rawFrame n body crc) = .ok (.invalid .badCrc) ∨
      ∃ m, tryDecode (rawFrame n body crc) = .ok (.decoded m (7 + n.toNat)) := by
  have hlen := rawFrame_length n body crc
  have hd := declaredLength_rawFrame n body crc
  rcases tryDecode_cases (rawFrame n body crc) with ⟨hl, _⟩ | ⟨_, h0, _⟩ | ⟨_, _, hl, _⟩ | ⟨_, _, _, e⟩ | ⟨_, _, _, e⟩
  · omega
  · exact absurd rfl h0
  · omega
  · exact .inl e
  · exact .inr ⟨_, hd ▸ e⟩

/-- Settles O30: the four kinds of bits are those of the sync byte, the length field, the body and the CRC field; the
last two leave the length as it is and break the CRC. -/
theorem singleBitErrorsAreFoundOut : Obligations.SingleBitErrorsAreFoundOut := by
  unfold Obligations.SingleBitErrorsAreFoundOut
  intro t q p i hp hi
  have hlen : (BitVec.ofNat 16 p.length).toNat = p.length := by
    rw [BitVec.toNat_ofNat, Nat.mod_eq_of_lt (by omega)]
  have hbody : ([t, q] ++ p).length = 2 + p.length := by
    simp only [List.length_append, List.length_cons, List.length_nil]
  have hbody' : ([t, q] ++ p).length = 2 + (BitVec.ofNat 16 p.length).toNat := by rw [hlen, hbody]
  rw [frameBytes_eq_rawFrame]
  refine ⟨fun h8 => ?sync, fun h8 h24 hbit => ?lengthUp, fun h8 h24 hbit => ?lengthDown, fun h24 => ?bodyOrCrc⟩
  case sync =>
    rw [flipBit_rawFrame_sync _ _ _ h8, tryDecode_long (by simp; omega), if_pos]
    simpa using xor_twoPow_ne Params.sync h8
  case lengthUp =>
    obtain ⟨k, rfl⟩ := Nat.exists_eq_add_of_le h8
    have hlt := lt_xor_two_pow hbit
    rw [flipBit_rawFrame_length _ _ _ (by omega)]
    refine tryDecode_rawFrame_incomplete ?_
    rw [toNat_xor_twoPow _ (by omega), hlen, hbody]
    simpa using hlt
  case lengthDown =>
    obtain ⟨k, rfl⟩ := Nat.exists_eq_add_of_le h8
    have hlt := xor_two_pow_lt hbit
    rw [Nat.add_sub_cancel_left] at hlt
    have hn := (toNat_xor_twoPow (BitVec.ofNat 16 p.length) (k := k) (by omega)).trans (by rw [hlen])
    rw [flipBit_rawFrame_length _ _ _ (by omega)]
    refine (tryDecode_rawFrame_of_lt ?_).imp id fun ⟨m, e⟩ => ⟨m, _, e, ?_⟩ <;> omega
  case bodyOrCrc =>
    obtain ⟨j, rfl⟩ := Nat.exists_eq_add_of_le h24
    by_cases hj : j < 8 * ([t, q] ++ p).length
    · rw [flipBit_rawFrame_body _ _ _ hj]
      exact tryDecode_rawFrame_badCrc (by rw [flipBit_length, hbody']) (crc16_flipBit_ne hj).symm
    · obtain ⟨k, rfl⟩ := Nat.exists_eq_add_of_le (Nat.not_lt.1 hj)
      have hk : k < 16 := by omega
      rw [flipBit_rawFrame_crc _ _ _ hk]
      exact tryDecode_rawFrame_badCrc hbody' (xor_twoPow_ne _ hk)

end Sys2Proof.Machine
end

section
/-! PROOFS. FEED, RESET and the reception of wire rows (43_stream.md R130 to R132, 30_encoding.md R66): refusals,
totality, the drain as a function of the state, and what does not depend on the result port. -/

namespace Sys2Proof.Machine

/-! Refusals and faults (R107, R129, R155). -/

theorem execFeed_off {chunk : List Byte} {s : State} (hc : chunk.length ≤ Config.chunkMax) (hq : s.ctrl ≠ .q) :
    execFeed chunk s = .refused .notQuiescent := by
  simp [execFeed, (chunkAdmitted_iff chunk).2 hc, hq]

/-- Settles O3: off Q RESET and an admitted FEED fail at their one remaining check. -/
theorem feedAndResetRefusedWhileDraining : Obligations.FeedAndResetRefusedWhileDraining := by
  unfold Obligations.FeedAndResetRefusedWhileDraining
  intro chunk s hc hq
  exact ⟨execReset_off hq, execFeed_off hc hq⟩

/-- Settles O23: at Q fetch is the command port's, which admits the decoded host command. -/
theorem stepRunsTheDecodedCommand : Obligations.StepRunsTheDecodedCommand := by
  unfold Obligations.StepRunsTheDecodedCommand
  intro s i rest hq hd hi
  have hd' : decodeSelector s.script = .ok (i, rest) := hd
  simp [step, fetch_q hq, fetchCommand, hd', hi]

/-- Settles O24: at Q the command port finds no byte to read. -/
theorem stepIdlesWithoutACommand : Obligations.StepIdlesWithoutACommand := by
  unfold Obligations.StepIdlesWithoutACommand
  intro s hq hs
  simp [step, fetch_q hq, fetchCommand, hs, decodeSelector]

theorem execFeed_ne_fault (chunk : List Byte) (s : State) (f : Fault) : execFeed chunk s ≠ .fault f := by
  by_cases hc : chunk.length ≤ Config.chunkMax
  · by_cases hq : s.ctrl = .q
    · obtain ⟨u, _, _, e⟩ := execFeed_next hc hq
      simp [e]
    · simp [execFeed_off hc hq]
  · simp [execFeed_chunkTooLong (Nat.not_le.1 hc)]

theorem receiveBytes_ne_fault (bytes : List Byte) (s : State) (f : Fault) : receiveBytes bytes s ≠ .fault f := by
  induction bytes generalizing s with
  | nil => simp [receiveBytes]
  | cons b bs ih =>
    rw [receiveBytes]
    split
    · exact ih _
    · exact absurd ‹_› (execFeed_ne_fault _ _ _)
    · simp

theorem exec_ne_fault (i : Instr) (s : State) (f : Fault) : exec i s ≠ .fault f := by
  rcases instr_kind i with ⟨a, rfl⟩ | rfl | ⟨c, rfl⟩ | hi | hi
  · rw [exec_actionInstr]
    rcases takeAction_enabled_or_refused a s with ha | hr
    · obtain ⟨t, ht, _⟩ := drainStep_measure (off_of_enabledAction ha)
      simp [takeAction_of_enabledAction ha, ht]
    · simp [hr]
  · have e : exec .reset s = execReset s := rfl
    by_cases hq : s.ctrl = .q
    · simp [e, execReset_q hq]
    · simp [e, execReset_off hq]
  · exact execFeed_ne_fault c s f
  · rcases exec_query hi with ⟨r, e⟩ | ⟨_, e⟩ <;> simp [e]
  · rcases exec_wire hi with e | ⟨_, e⟩ <;> rw [e]
    · exact receiveBytes_ne_fault _ s f
    · simp

end Sys2Proof.Machine

namespace Sys2Proof

/-! What the decoder of the script form rejects (R69, R72). -/

theorem readCount_error {bs : List Byte} {e : Reject} (h : readCount bs = .error e) : e = .truncatedOperand := by
  unfold readCount at h
  split at h <;> cases h
  rfl

theorem readBlock_error {bs : List Byte} {e : Reject} (h : readBlock bs = .error e) : e = .truncatedOperand := by
  unfold readBlock at h
  split at h
  · cases h
    exact readCount_error ‹_›
  · split at h <;> cases h
    rfl

theorem readEncode_error {bs : List Byte} {e : Reject} (h : readEncode bs = .error e) : e = .truncatedOperand := by
  unfold readEncode at h
  split at h
  · split at h <;> cases h
    exact readBlock_error ‹_›
  · cases h
    rfl

theorem readBlockInstr_error {make : List Byte → Instr} {bs : List Byte} {e : Reject}
    (h : readBlockInstr make bs = .error e) : e = .truncatedOperand := by
  unfold readBlockInstr at h
  split at h <;> cases h
  exact readBlock_error ‹_›

/-- The decoder of selectors rejects by name, and never for a read past the end (R9). -/
theorem decodeSelector_ne_readFault (bs : List Byte) (f : Machine.Fault) :
    decodeSelector bs ≠ .error (.readFault f) := by
  cases bs with
  | nil => nofun
  | cons selector rest =>
    intro h
    simp only [decodeSelector] at h
    split at h
    case h_2 => cases readBlockInstr_error h
    case h_3 => cases readEncode_error h
    case h_4 => cases readBlockInstr_error h
    case h_5 => cases readBlockInstr_error h
    all_goals cases h

end Sys2Proof

namespace Sys2Proof.Machine

theorem fetchCommand_ne_fault (s : State) (f : Fault) : fetchCommand s ≠ .fault f := by
  unfold fetchCommand
  split
  case h_7 => exact absurd ‹_› (decodeSelector_ne_readFault _ _) -- the one outcome that the port would fault on
  case h_1 => split <;> nofun
  all_goals nofun

theorem step_ne_fault (s : State) (f : Fault) : step s ≠ .fault f := by
  by_cases hq : s.ctrl = .q
  · rw [step, fetch_q hq]
    split
    · nofun
    · exact exec_ne_fault _ _ f
    · exact absurd ‹_› (fetchCommand_ne_fault s _)
    · nofun
  · obtain ⟨a, t, _, _, hstep, ht⟩ := step_draining hq
    rw [hstep, ht]
    nofun

/-- Settles O31: the guarded reads, the bounded drain and the port's decoder leave no path to a fault. -/
theorem nothingFaults : Obligations.NothingFaults := by
  unfold Obligations.NothingFaults
  exact ⟨exec_ne_fault, step_ne_fault⟩

/-! The rows of the RX byte stream (R66; log entries 7 and 8). -/

/-- The reception of one byte is its FEED. -/
theorem receiveBytes_singleton (b : Byte) (s : State) : receiveBytes [b] s = execFeed [b] s := by
  rw [receiveBytes]
  cases execFeed [b] s <;> rfl

/-- A row's type field is that one byte, named or not. -/
theorem encode_typeFieldInstr (v : Byte) : encode (typeFieldInstr v) = [v] := by
  have hnamed (k : Nat) (hk : v.toNat = k) : v = BitVec.ofNat 8 k := by
    rw [← hk, BitVec.ofNat_toNat, BitVec.setWidth_eq]
  unfold typeFieldInstr
  split
  case h_7 => rfl
  all_goals rw [hnamed _ ‹_›]; rfl

/-- Settles O47: the row is the reception of its encoding, which is the field itself. -/
theorem typeNamesHaveNoEffect : Obligations.TypeNamesHaveNoEffect := by
  unfold Obligations.TypeNamesHaveNoEffect
  intro v rest s
  refine ⟨typeFieldInstr v, rfl, encode_typeFieldInstr v, ?_⟩
  have hfeed : exec (.feed [v]) s = receiveBytes (encode (typeFieldInstr v)) s := by
    rw [encode_typeFieldInstr, receiveBytes_singleton]
    rfl
  rw [hfeed]
  unfold typeFieldInstr
  split <;> rfl

/-- Settles O48: a well-formed row is the reception of its bytes, and from Q a reception ends at Q. -/
theorem wireRowsCompleteAtQuiescence : Obligations.WireRowsCompleteAtQuiescence := by
  unfold Obligations.WireRowsCompleteAtQuiescence
  intro i s hi hw hq
  rcases exec_wire hi with e | ⟨hnot, _⟩
  · obtain ⟨t, ht, htq⟩ := receiveBytes_next (encode i) hq
    exact ⟨t, (e s).trans ht, htq⟩
  · rw [hw] at hnot
    cases hnot

/-- Settles O49: the value of a query is that of its operands alone, and they are admitted. -/
theorem queriesDoNotSeeTheState : Obligations.QueriesDoNotSeeTheState := by
  unfold Obligations.QueriesDoNotSeeTheState
  intro i hw hi
  rcases exec_query hi with h | ⟨hnot, _⟩
  · exact h
  · rw [hw] at hnot
    cases hnot

/-! The drain as a function of the state (R129, R130). -/

/-- Where the drain of a state ends. -/
def drained (s : State) : State :=
  match drain (drainBound s) s with
  | .next t => t
  | .fault _ => s
  | .refused _ => s

theorem drain_drained (s : State) : drain (drainBound s) s = .next (drained s) ∧ (drained s).ctrl = .q := by
  obtain ⟨t, ht, hq⟩ := drain_bound_next s
  simp [drained, ht, hq]

@[simp] theorem drained_ctrl (s : State) : (drained s).ctrl = .q := (drain_drained s).2

/-- A drain of any length that ends, ends there. -/
theorem drained_of_drain {fuel : Nat} {s t : State} (h : drain fuel s = .next t) : drained s = t := by
  have h1 := drain_mono h (drainBound s)
  have h2 := drain_mono (drain_drained s).1 fuel
  rw [Nat.add_comm, h1] at h2
  cases h2
  rfl

theorem drained_q {s : State} (hq : s.ctrl = .q) : drained s = s :=
  drained_of_drain (fuel := 0) (if_pos hq)

theorem drained_step {s t : State} (hq : s.ctrl ≠ .q) (ht : drainStep s = .next t) : drained s = drained t := by
  refine drained_of_drain (fuel := drainBound t + 1) ?_
  rw [drain, if_neg hq, ht]
  exact (drain_drained t).1

/-- The induction along a drain: what holds at Q, and holds before an action if it holds after it, holds. -/
theorem drained_induction {P : State → Prop} (quiescent : ∀ s, s.ctrl = .q → P s)
    (action : ∀ s t, s.ctrl ≠ .q → drainStep s = .next t → P t → P s) (s : State) : P s := by
  by_cases hq : s.ctrl = .q
  · exact quiescent s hq
  · obtain ⟨t, ht, hm⟩ := drainStep_measure hq
    rcases hm with htq | ⟨_, hlt⟩
    · exact action s t hq ht (quiescent t htq)
    · exact action s t hq ht (drained_induction quiescent action t)
termination_by drainMeasure s

/-- FEED by the drain it runs (R130). -/
theorem execFeed_eq {chunk : List Byte} {s : State} (hc : chunk.length ≤ Config.chunkMax) (hq : s.ctrl = .q) :
    execFeed chunk s = .next ((drained (beginFeed chunk s)).respond .ok) := by
  obtain ⟨u, hu, _, e⟩ := execFeed_next hc hq
  rw [e, drained_of_drain hu]

theorem setCtrl_setCtrl (s : State) (c d : Ctrl) : (s.setCtrl c).setCtrl d = s.setCtrl d := rfl

/-! FEEDs that only lengthen the buffer (R131, R175). -/

/-- A buffer that begins with a sync byte and has no whole candidate waits as it is (R121, R126). -/
theorem drained_s1_quiescent {s : State} (hc : s.ctrl = .s1) (hb : Quiescent s.buf) : drained s = s.setCtrl .q := by
  by_cases hl : s.buf.length < 7
  · rw [drained_step (by simp [hc]) (drainStep_s1WaitShort hc hl), drained_q rfl]
  · obtain ⟨h0, _⟩ := hb.resolve_left hl
    have hdecode : tryDecode s.buf = .ok .incomplete := tryDecode_incomplete_iff.2 hb
    rw [drained_step (by simp [hc]) (drainStep_s1Proceed hc (Nat.not_lt.1 hl)),
      drained_step (s := s.setCtrl .s2) nofun (drainStep_s2AtSync rfl (firstSync_zero.2 h0)), setCtrl_setCtrl,
      drained_step (s := s.setCtrl .s3) nofun (drainStep_s3WaitIncomplete rfl hdecode), setCtrl_setCtrl,
      drained_q rfl]

/-- A FEED that leaves no whole candidate and no noise to discard appends its chunk (R175). -/
theorem execFeed_quiescent {chunk : List Byte} {s : State} (hc : chunk.length ≤ Config.chunkMax) (hq : s.ctrl = .q)
    (hb : Quiescent (s.buf ++ chunk)) : execFeed chunk s = .next ((s.bufAppend chunk).respond .ok) := by
  rw [execFeed_eq hc hq, drained_s1_quiescent (s := beginFeed chunk s) rfl hb]
  simp [beginFeed, State.setCtrl, State.bufAppend, State.respond, hq]

/-- Settles O40: the buffer of R133 with nothing appended is still quiescent. -/
theorem emptyFeedChangesNothing : Obligations.EmptyFeedChangesNothing := by
  unfold Obligations.EmptyFeedChangesNothing
  intro s hs hq
  have hb : Quiescent (s.buf ++ []) := by simpa using hs.1 hq
  have e : exec (.feed []) s = _ := execFeed_quiescent (Nat.zero_le _) hq hb
  simpa [State.bufAppend, State.respond] using e

/-- Settles O41: an incomplete candidate is a quiescent buffer. -/
theorem feedHoldsAnIncompleteCandidate : Obligations.FeedHoldsAnIncompleteCandidate := by
  unfold Obligations.FeedHoldsAnIncompleteCandidate
  intro chunk s hq hc h0 _ hl
  exact execFeed_quiescent hc hq (.inr ⟨h0, hl⟩)

/-- Settles O46: with its fourth byte the buffer is still short, so the FEED of the byte appends it. -/
theorem typeFieldIsHeldUnchanged : Obligations.TypeFieldIsHeldUnchanged := by
  unfold Obligations.TypeFieldIsHeldUnchanged
  intro lo hi v s hq hb
  have held (x : Byte) : receiveBytes [x] s =
      .next { s with buf := [0xAA, lo, hi, x], results := s.results ++ [.ok] } := by
    rw [receiveBytes_singleton, execFeed_quiescent (chunk := [x]) one_le_chunkMax hq (.inl (by simp [hb]))]
    simp [State.bufAppend, State.respond, hb]
  exact ⟨held 0x01, held 0x02, held 0x03, held 0x04, held 0x05, held 0x10, held v⟩

/-! What does not depend on the result port and the script (R50; log entries 3 and 4). -/

/-- `s` with other results and other pending commands. -/
def State.withPort (s : State) (rs : List Result) (sc : List Byte) : State :=
  { s with results := rs, script := sc }

/-- A meaning that adds to the results and does not look at them or at the script. -/
def PortBlind (f : State → Host.Outcome State Fault Refusal) : Prop :=
  ∀ s t rs sc, f s = .next t →
    ∃ new, t.results = s.results ++ new ∧ f (s.withPort rs sc) = .next (t.withPort (rs ++ new) sc)

theorem drainStep_withPort {s t : State} (rs : List Result) (sc : List Byte) (hq : s.ctrl ≠ .q)
    (h : drainStep s = .next t) : drainStep (s.withPort rs sc) = .next (t.withPort rs sc) := by
  rcases drainStep_inv hq h with ⟨hc, hg, rfl⟩ | ⟨hc, hg, rfl⟩ | ⟨hc, hg, rfl⟩ | ⟨hc, hg, rfl⟩ | ⟨k, hc, hg, rfl⟩ |
    ⟨hc, hg, rfl⟩ | ⟨r, hc, hg, rfl⟩ | ⟨m, n, hc, hg, rfl⟩
  · exact drainStep_s1WaitShort (s := s.withPort rs sc) hc hg
  · exact drainStep_s1Proceed (s := s.withPort rs sc) hc hg
  · exact drainStep_s2DiscardAll (s := s.withPort rs sc) hc hg
  · exact drainStep_s2AtSync (s := s.withPort rs sc) hc hg
  · exact drainStep_s2DiscardPrefix (s := s.withPort rs sc) hc hg
  · exact drainStep_s3WaitIncomplete (s := s.withPort rs sc) hc hg
  · exact drainStep_s3DropFalseSync (s := s.withPort rs sc) hc hg
  · exact drainStep_s3Emit (s := s.withPort rs sc) hc hg

theorem drained_withPort (s : State) (rs : List Result) (sc : List Byte) :
    drained (s.withPort rs sc) = (drained s).withPort rs sc := by
  induction s using drained_induction with
  | quiescent s hq =>
    rw [drained_q hq]
    exact drained_q hq
  | action s t hq ht ih =>
    have hq' : (s.withPort rs sc).ctrl ≠ .q := hq
    rw [drained_step hq ht, drained_step hq' (drainStep_withPort rs sc hq ht), ih]

/-- R33: a drain returns nothing and issues no command. -/
theorem drained_port (s : State) : (drained s).results = s.results ∧ (drained s).script = s.script := by
  induction s using drained_induction with
  | quiescent s hq => rw [drained_q hq]; exact ⟨rfl, rfl⟩
  | action s t hq ht ih =>
    obtain ⟨hres, hscript⟩ := drainStep_port hq ht
    rw [drained_step hq ht, ← hres, ← hscript]
    exact ih

theorem portBlind_execFeed (chunk : List Byte) : PortBlind (execFeed chunk) := by
  intro s t rs sc h
  obtain ⟨hc, hq, _⟩ := execFeed_inv h
  rw [execFeed_eq hc hq] at h
  cases h
  refine ⟨[.ok], congrArg (· ++ [Result.ok]) (drained_port (beginFeed chunk s)).1, ?_⟩
  have hq' : (s.withPort rs sc).ctrl = .q := hq
  have hbegin : beginFeed chunk (s.withPort rs sc) = (beginFeed chunk s).withPort rs sc := rfl
  rw [execFeed_eq hc hq', hbegin, drained_withPort]
  rfl

theorem portBlind_receiveBytes (bytes : List Byte) : PortBlind (receiveBytes bytes) := by
  induction bytes with
  | nil =>
    intro s t rs sc h
    cases h
    exact ⟨[], by simp, by simp [receiveBytes]⟩
  | cons b bs ih =>
    intro s t rs sc h
    simp only [receiveBytes] at h
    split at h
    case h_1 u hu =>
      obtain ⟨new, hres, hfeed⟩ := portBlind_execFeed [b] s u rs sc hu
      obtain ⟨new', hres', hrecv⟩ := ih u t (rs ++ new) sc h
      refine ⟨new ++ new', by rw [hres', hres, List.append_assoc], ?_⟩
      simp only [receiveBytes, hfeed, hrecv, List.append_assoc]
    all_goals cases h

theorem portBlind_exec (i : Instr) : PortBlind (exec i) := by
  intro s t rs sc h
  rcases instr_kind i with ⟨a, rfl⟩ | rfl | ⟨c, rfl⟩ | hi | hi
  · rw [exec_actionInstr] at h ⊢
    have ha := enabledAction_of_takeAction h
    obtain ⟨hq, hstep⟩ := takeAction_next h
    refine ⟨[], by simp [(drainStep_port hq hstep).1], ?_⟩
    have ha' : enabledAction (s.withPort rs sc) = .ok (some a) := ha
    rw [takeAction_of_enabledAction ha', List.append_nil]
    exact drainStep_withPort rs sc hq hstep
  · by_cases hq : s.ctrl = .q
    · have hq' : (s.withPort rs sc).ctrl = .q := hq
      rw [resetDropsThePartialBuffer s hq] at h
      cases h
      exact ⟨[.ok], rfl, resetDropsThePartialBuffer _ hq'⟩
    · have e : exec .reset s = _ := execReset_off hq
      rw [e] at h
      cases h
  · exact portBlind_execFeed c s t rs sc h
  · rcases exec_query hi with ⟨r, e⟩ | ⟨_, e⟩ <;> rw [e] at h <;> cases h
    exact ⟨[r], rfl, e _⟩
  · rcases exec_wire hi with e | ⟨_, e⟩ <;> rw [e] at h
    · rw [e]
      exact portBlind_receiveBytes _ s t rs sc h
    · cases h

/-- Settles O50: no meaning reads the results or the script, and each appends to the results. -/
theorem rxSideDoesNotSeeResultsOrScript : Obligations.RxSideDoesNotSeeResultsOrScript := by
  unfold Obligations.RxSideDoesNotSeeResultsOrScript
  exact portBlind_exec

end Sys2Proof.Machine
end

section
/-! PROOFS. Chunk independence (43_stream.md R134, R135): a FEED in two parts leaves the records of the whole, and the
buffer but for leading noise. -/

namespace Sys2Proof.Machine

/-! What is left from the first sync byte on (R125, R135). -/

theorem fromSync_of_head {b : List Byte} (h : b.head? = some Params.sync) : fromSync b = b := by
  cases b with
  | nil => rfl
  | cons x xs =>
    obtain rfl : x = 0xAA := Option.some.inj h
    rfl

theorem fromSync_of_none {b : List Byte} (h : firstSync b = none) : fromSync b = [] :=
  List.dropWhile_eq_nil_iff.2 fun x hx => decide_eq_true (firstSync_none h x hx)

theorem fromSync_of_some {b : List Byte} {k : Nat} (h : firstSync b = some k) : fromSync b = b.drop k := by
  obtain ⟨_, hhead, hbefore⟩ := firstSync_some h
  calc fromSync b = fromSync (b.take k ++ b.drop k) := by rw [List.take_append_drop]
    _ = fromSync (b.drop k) := List.dropWhile_append_of_pos fun x hx => decide_eq_true (hbefore x hx)
    _ = b.drop k := fromSync_of_head hhead

theorem fromSync_fromSync (b : List Byte) : fromSync (fromSync b) = fromSync b :=
  List.dropWhile_idempotent _ b

theorem fromSync_length_le (b : List Byte) : (fromSync b).length ≤ b.length :=
  (List.dropWhile_suffix _).length_le

/-- Leading noise stays leading noise when bytes follow. -/
theorem fromSync_append_congr {b b' : List Byte} (h : fromSync b = fromSync b') (x : List Byte) :
    fromSync (b ++ x) = fromSync (b' ++ x) := by
  unfold fromSync at h ⊢
  rw [List.dropWhile_append, List.dropWhile_append, h]

theorem firstSync_append {b : List Byte} {k : Nat} (h : firstSync b = some k) (x : List Byte) :
    firstSync (b ++ x) = some k := by
  have hk := (firstSync_some h).1
  obtain ⟨hsync, hbefore⟩ := firstSync_eq_some_iff.1 h
  refine firstSync_eq_some_iff.2 ⟨by rw [List.getElem?_append_left hk, hsync], fun i hi => ?_⟩
  rw [List.getElem?_append_left (hi.trans hk)]
  exact hbefore i hi

/-! Equal records and equal buffers but for leading noise. -/

/-- What R134 and R135 ask of two runs. -/
structure SameRecords (s t : State) : Prop where
  msgLog : s.msgLog = t.msgLog
  diagLog : s.diagLog = t.diagLog
  buf : fromSync s.buf = fromSync t.buf

theorem SameRecords.refl (s : State) : SameRecords s s := ⟨rfl, rfl, rfl⟩

theorem SameRecords.symm {s t : State} (h : SameRecords s t) : SameRecords t s :=
  ⟨h.msgLog.symm, h.diagLog.symm, h.buf.symm⟩

theorem SameRecords.trans {s t u : State} (h : SameRecords s t) (h' : SameRecords t u) : SameRecords s u :=
  ⟨h.msgLog.trans h'.msgLog, h.diagLog.trans h'.diagLog, h.buf.trans h'.buf⟩

/-- The state as a drain that starts over finds it once the leading noise is gone. -/
def resync (s : State) : State := { s with buf := fromSync s.buf, ctrl := .s1 }

theorem drained_resync_s3 {s : State} (hc : s.ctrl = .s3) (h0 : s.buf.head? = some Params.sync) :
    drained s = drained (resync s) := by
  have hr : resync s = s.setCtrl .s1 := by rw [resync, fromSync_of_head h0]; rfl
  have hs : s.setCtrl .s3 = s := by
    cases s
    cases hc
    rfl
  by_cases hl : s.buf.length < 7
  · rw [hr, drained_step (by simp [hc]) (drainStep_s3WaitIncomplete hc (tryDecode_short hl)),
      drained_step (s := s.setCtrl .s1) nofun (drainStep_s1WaitShort rfl hl)]
    rfl
  · have hl' : 7 ≤ s.buf.length := Nat.not_lt.1 hl
    rw [hr, drained_step (s := s.setCtrl .s1) nofun (drainStep_s1Proceed rfl hl'), setCtrl_setCtrl,
      drained_step (s := s.setCtrl .s2) nofun (drainStep_s2AtSync rfl (firstSync_zero.2 h0)), setCtrl_setCtrl, hs]

theorem drained_resync_s2 {s : State} (hc : s.ctrl = .s2) : drained s = drained (resync s) := by
  have hq : s.ctrl ≠ .q := by simp [hc]
  rcases hf : firstSync s.buf with _ | _ | k
  · have hshort : (resync s).buf.length < 7 := by
      rw [resync, fromSync_of_none hf]
      exact Nat.zero_lt_succ 6
    rw [drained_step hq (drainStep_s2DiscardAll hc hf),
      drained_step (s := resync s) nofun (drainStep_s1WaitShort rfl hshort), resync, fromSync_of_none hf]
    rfl
  · rw [drained_step hq (drainStep_s2AtSync hc hf)]
    exact drained_resync_s3 (s := s.setCtrl .s3) rfl (firstSync_zero.1 hf)
  · rw [drained_step hq (drainStep_s2DiscardPrefix hc hf), resync, fromSync_of_some hf]
    rfl

/-- Leading noise, and the control state that the drain is at, make no difference to its records. -/
theorem sameRecords_resync {s : State} (hq : s.ctrl ≠ .q) (hs : RxInv s) :
    SameRecords (drained s) (drained (resync s)) := by
  cases hc : s.ctrl with
  | s1 =>
    by_cases hl : s.buf.length < 7
    · rw [drained_step hq (drainStep_s1WaitShort hc hl), drained_q rfl, drained_step (s := resync s) nofun
        (drainStep_s1WaitShort rfl ((fromSync_length_le s.buf).trans_lt hl)), drained_q rfl]
      exact ⟨rfl, rfl, (fromSync_fromSync s.buf).symm⟩
    · rw [drained_step hq (drainStep_s1Proceed hc (Nat.not_lt.1 hl)), drained_resync_s2 (s := s.setCtrl .s2) rfl]
      exact .refl _
  | s2 =>
    rw [drained_resync_s2 hc]
    exact .refl _
  | s3 =>
    rw [drained_resync_s3 hc (hs.2 hc)]
    exact .refl _
  | q => exact absurd hc hq

/-- A drain keeps the likeness, whatever the result port and the script hold. -/
theorem sameRecords_drained {s t : State} (hs : s.ctrl ≠ .q) (hsi : RxInv s) (ht : t.ctrl ≠ .q) (hti : RxInv t)
    (h : SameRecords s t) : SameRecords (drained s) (drained t) := by
  have hport : resync t = (resync s).withPort t.results t.script := by
    simp [resync, State.withPort, h.msgLog, h.diagLog, h.buf]
  have hmid : SameRecords (drained (resync s)) (drained (resync t)) := by
    rw [hport, drained_withPort]
    exact ⟨rfl, rfl, rfl⟩
  exact (sameRecords_resync hs hsi).trans (hmid.trans (sameRecords_resync ht hti).symm)

/-! Bytes that follow a drain, against bytes that were there before it. -/

/-- An action that does not end the drain is taken all the same when more bytes follow (R111). -/
theorem drainStep_bufAppend {s t : State} (hq : s.ctrl ≠ .q) (h : drainStep s = .next t) (ht : t.ctrl ≠ .q)
    (x : List Byte) : drainStep (s.bufAppend x) = .next (t.bufAppend x) := by
  rcases drainStep_inv hq h with ⟨_, _, rfl⟩ | ⟨hc, hl, rfl⟩ | ⟨_, _, rfl⟩ | ⟨hc, hf, rfl⟩ | ⟨k, hc, hf, rfl⟩ |
    ⟨_, _, rfl⟩ | ⟨r, hc, hd, rfl⟩ | ⟨m, n, hc, hd, rfl⟩
  · exact absurd rfl ht
  · exact drainStep_s1Proceed hc (by simp; omega)
  · exact absurd rfl ht
  · exact drainStep_s2AtSync hc (firstSync_append hf x)
  · rw [drainStep_s2DiscardPrefix (s := s.bufAppend x) hc (firstSync_append hf x)]
    simp [State.bufAppend, State.bufDrop, State.setCtrl, List.drop_append_of_le_length (firstSync_some hf).1.le]
  · exact absurd rfl ht
  · rw [drainStep_s3DropFalseSync (s := s.bufAppend x) hc (tryDecode_append hd nofun x)]
    simp [State.bufAppend, State.bufDrop, State.setCtrl, State.emitDiag, State.nextPos,
      List.drop_append_of_le_length (one_le_length_of_invalid hd)]
  · obtain ⟨_, _, hle, _, _⟩ := tryDecode_decoded hd
    rw [drainStep_s3Emit (s := s.bufAppend x) hc (tryDecode_append hd nofun x)]
    simp [State.bufAppend, State.bufDrop, State.setCtrl, State.emitMsg, State.nextPos,
      List.drop_append_of_le_length hle]

/-- The action that ends a drain emits nothing and discards noise only (R121, R123, R126). -/
theorem drainStep_to_q {s t : State} (hq : s.ctrl ≠ .q) (h : drainStep s = .next t) (ht : t.ctrl = .q) :
    SameRecords s t := by
  rcases drainStep_inv hq h with ⟨_, _, rfl⟩ | ⟨_, _, rfl⟩ | ⟨_, hf, rfl⟩ | ⟨_, _, rfl⟩ | ⟨k, _, _, rfl⟩ |
    ⟨_, _, rfl⟩ | ⟨r, _, _, rfl⟩ | ⟨m, n, _, _, rfl⟩
  · exact ⟨rfl, rfl, rfl⟩
  · cases ht
  · exact ⟨rfl, rfl, fromSync_of_none hf⟩
  · cases ht
  · cases ht
  · exact ⟨rfl, rfl, rfl⟩
  · cases ht
  · cases ht

theorem rxInv_bufAppend {s : State} (hq : s.ctrl ≠ .q) (hs : RxInv s) (x : List Byte) : RxInv (s.bufAppend x) := by
  refine ⟨fun h => absurd h hq, fun h3 => ?_⟩
  rw [bufAppend_buf, List.head?_append, hs.2 h3]
  rfl

theorem beginFeed_ctrl_ne (x : List Byte) (s : State) : (beginFeed x s).ctrl ≠ .q := nofun

theorem rxInv_beginFeed (x : List Byte) (s : State) : RxInv (beginFeed x s) := ⟨nofun, nofun⟩

/-- R134: to drain and then FEED more is to drain with the bytes all there. -/
theorem sameRecords_bufAppend (x : List Byte) (s : State) (hq : s.ctrl ≠ .q) (hs : RxInv s) :
    SameRecords (drained (s.bufAppend x)) (drained (beginFeed x (drained s))) := by
  induction s using drained_induction with
  | quiescent s h => exact absurd h hq
  | action s t hq' h ih =>
    by_cases ht : t.ctrl = .q
    · obtain ⟨hm, hd, hb⟩ := drainStep_to_q hq h ht
      rw [drained_step hq h, drained_q ht]
      exact sameRecords_drained hq (rxInv_bufAppend hq hs x) (beginFeed_ctrl_ne x t) (rxInv_beginFeed x t)
        ⟨hm, hd, fromSync_append_congr hb x⟩
    · have hq'' : (s.bufAppend x).ctrl ≠ .q := hq
      rw [drained_step hq h, drained_step hq'' (drainStep_bufAppend hq h ht x)]
      exact ih ht (drainStep_rxInv hq h)

/-- An admitted FEED from a quiescent state, and the invariant after it. -/
theorem execFeed_rxInv {c : List Byte} {s : State} (hc : c.length ≤ Config.chunkMax) (hs : RxInv s) (hq : s.ctrl = .q) :
    execFeed c s = .next ((drained (beginFeed c s)).respond .ok) ∧ RxInv ((drained (beginFeed c s)).respond .ok) :=
  ⟨execFeed_eq hc hq, execFeed_keeps rxInv_keptByUpdates (execFeed_eq hc hq) hs⟩

theorem feedAll_cons {c : List Byte} {s t : State} (h : execFeed c s = .next t) (cs : List (List Byte)) :
    feedAll (c :: cs) s = feedAll cs t := by
  have e : exec (.feed c) s = .next t := h
  simp only [feedAll, e]

/-- R134: any chunking leaves the records of one drain over the whole stream. -/
theorem feedAll_sameRecords {cs : List (List Byte)} (hcs : ∀ c ∈ cs, c.length ≤ Config.chunkMax) {s : State}
    (hs : RxInv s) (hq : s.ctrl = .q) :
    ∃ t, feedAll cs s = .next t ∧ SameRecords t (drained (beginFeed cs.flatten s)) := by
  induction cs generalizing s with
  | nil =>
    refine ⟨s, rfl, ?_⟩
    have hb : Quiescent (beginFeed [] s).buf := by simpa [beginFeed] using hs.1 hq
    rw [List.flatten_nil, drained_s1_quiescent rfl hb]
    exact ⟨rfl, rfl, by simp [beginFeed]⟩
  | cons c cs ih =>
    obtain ⟨hc, hcs'⟩ := List.forall_mem_cons.1 hcs
    obtain ⟨hfeed, hinv⟩ := execFeed_rxInv hc hs hq
    obtain ⟨t, ht, hrest⟩ := ih hcs' hinv (drained_ctrl _)
    refine ⟨t, (feedAll_cons hfeed cs).trans ht, hrest.trans ?_⟩
    have hall : beginFeed (c :: cs).flatten s = (beginFeed c s).bufAppend cs.flatten := by
      simp [beginFeed, State.bufAppend, State.setCtrl]
    have hok : SameRecords (beginFeed cs.flatten ((drained (beginFeed c s)).respond .ok))
        (beginFeed cs.flatten (drained (beginFeed c s))) := ⟨rfl, rfl, rfl⟩
    rw [hall]
    exact (sameRecords_drained (beginFeed_ctrl_ne _ _) (rxInv_beginFeed _ _) (beginFeed_ctrl_ne _ _)
      (rxInv_beginFeed _ _) hok).trans (sameRecords_bufAppend _ _ (beginFeed_ctrl_ne c s) (rxInv_beginFeed c s)).symm

/-- Settles O42: both chunkings leave the records of one drain over the same stream. -/
theorem chunkingDoesNotChangeTheRecords : Obligations.ChunkingDoesNotChangeTheRecords := by
  unfold Obligations.ChunkingDoesNotChangeTheRecords
  intro cs ds s hs hq hcs hds hflat
  obtain ⟨t, ht, htr⟩ := feedAll_sameRecords hcs hs hq
  obtain ⟨u, hu, hur⟩ := feedAll_sameRecords hds hs hq
  rw [hflat] at htr
  obtain ⟨hm, hd, hb⟩ := htr.trans hur.symm
  exact ⟨t, u, ht, hu, hm, hd, hb⟩

end Sys2Proof.Machine
end

section
/-! PROOFS. Resynchronization (43_stream.md R138, R140) and the reception of a frame: what the bytes not yet consumed
and the records already emitted have in common along a run of FEEDs. -/

namespace Sys2Proof.Machine

/-! Runs of FEEDs and the bytes not yet consumed. -/

section Pending

-- `Q` relates the bytes not yet consumed (the buffer and the stream still to come) and the two logs.
variable {Q : List Byte → List MsgRecord → List DiagRecord → Prop}
  (action : ∀ rest s t, s.ctrl ≠ .q → RxInv s → drainStep s = .next t →
    Q (s.buf ++ rest) s.msgLog s.diagLog → Q (t.buf ++ rest) t.msgLog t.diagLog)
include action

/-- What every drain action keeps of such a relation, the drain keeps. -/
theorem drained_pending {rest : List Byte} (s : State) (hs : RxInv s) (h : Q (s.buf ++ rest) s.msgLog s.diagLog) :
    Q ((drained s).buf ++ rest) (drained s).msgLog (drained s).diagLog := by
  induction s using drained_induction with
  | quiescent s hq => rwa [drained_q hq]
  | action s t hq ht ih =>
    rw [drained_step hq ht]
    exact ih (drainStep_rxInv hq ht) (action rest s t hq hs ht h)

/-- A run of admitted FEEDs goes through: it keeps such a relation, returns one OK a FEED and issues no command. -/
theorem feedAll_pending {cs : List (List Byte)} (hcs : ∀ c ∈ cs, c.length ≤ Config.chunkMax) {s : State}
    (hs : RxInv s) (hq : s.ctrl = .q) (h : Q (s.buf ++ cs.flatten) s.msgLog s.diagLog) :
    ∃ t, feedAll cs s = .next t ∧ t.ctrl = .q ∧ Quiescent t.buf ∧ Q t.buf t.msgLog t.diagLog ∧
      t.results = s.results ++ List.replicate cs.length .ok ∧ t.script = s.script := by
  induction cs generalizing s with
  | nil => exact ⟨s, rfl, hq, hs.1 hq, by simpa using h, by simp, rfl⟩
  | cons c cs ih =>
    obtain ⟨hc, hcs'⟩ := List.forall_mem_cons.1 hcs
    obtain ⟨hfeed, hinv⟩ := execFeed_rxInv hc hs hq
    have hbegin : Q ((beginFeed c s).buf ++ cs.flatten) (beginFeed c s).msgLog (beginFeed c s).diagLog := by
      simpa [beginFeed] using h
    have hdrain := drained_pending action (beginFeed c s) (rxInv_beginFeed c s) hbegin
    obtain ⟨t, ht, htq, htb, hQ, hres, hscript⟩ := ih hcs' hinv (drained_ctrl _) hdrain
    obtain ⟨hres', hscript'⟩ := drained_port (beginFeed c s)
    refine ⟨t, (feedAll_cons hfeed cs).trans ht, htq, htb, hQ, ?_, ?_⟩
    · rw [hres, respond_results, hres', List.length_cons, List.replicate_succ, List.append_assoc]
      rfl
    · rw [hscript, respond_script, hscript']
      rfl

end Pending

theorem rxInv_of_empty {s : State} (hq : s.ctrl = .q) (hb : s.buf = []) : RxInv s := by
  refine ⟨fun _ => .inl (by simp [hb]), fun h3 => ?_⟩
  rw [hq] at h3
  cases h3

/-! Frames in noise without sync bytes (R138). -/

/-- The stream of frames of these messages, each after its noise, and a tail. -/
def noisyFrames (parts : List (List Byte × Message)) (tail : List Byte) : List Byte :=
  parts.flatMap (fun x => x.1 ++ frameBytes x.2.type x.2.seq x.2.payload) ++ tail

/-- The noise holds no sync byte, and the messages fit frames. -/
def CleanParts (parts : List (List Byte × Message)) : Prop :=
  ∀ x ∈ parts, Params.sync ∉ x.1 ∧ x.2.payload.length ≤ 65535

theorem noisyFrames_cons (noise : List Byte) (m : Message) (parts : List (List Byte × Message)) (tail : List Byte) :
    noisyFrames ((noise, m) :: parts) tail =
      noise ++ (frameBytes m.type m.seq m.payload ++ noisyFrames parts tail) := by
  simp [noisyFrames]

theorem cleanParts_cons {noise : List Byte} {m : Message} {parts : List (List Byte × Message)} :
    CleanParts ((noise, m) :: parts) ↔
      (Params.sync ∉ noise ∧ m.payload.length ≤ 65535) ∧ CleanParts parts :=
  List.forall_mem_cons

/-- A sync byte first is that of the first frame. -/
theorem noisyFrames_head_sync {parts : List (List Byte × Message)} {tail : List Byte} (hp : CleanParts parts)
    (ht : Params.sync ∉ tail) (h : (noisyFrames parts tail).head? = some Params.sync) :
    ∃ m ps, parts = ([], m) :: ps := by
  match parts with
  | [] => exact absurd (List.mem_of_mem_head? h) ht
  | ([], m) :: ps => exact ⟨m, ps, rfl⟩
  | (x :: xs, m) :: ps =>
    obtain ⟨⟨hnoise, _⟩, _⟩ := cleanParts_cons.1 hp
    obtain rfl : x = Params.sync := Option.some.inj h
    exact absurd List.mem_cons_self hnoise

/-- The decoder answers the first message when its frame is first. -/
theorem tryDecode_noisyFrames {m : Message} (hm : m.payload.length ≤ 65535) (parts : List (List Byte × Message))
    (tail : List Byte) :
    tryDecode (noisyFrames (([], m) :: parts) tail) = .ok (.decoded m (7 + m.payload.length)) := by
  rw [noisyFrames_cons, List.nil_append, tryDecode_frameBytes _ _ hm]

/-- To drop bytes before the first sync byte is to drop noise: the same messages are still to come. -/
theorem noisyFrames_drop {parts : List (List Byte × Message)} {tail : List Byte} (hp : CleanParts parts) {k : Nat}
    (hk : Params.sync ∉ (noisyFrames parts tail).take k) :
    ∃ parts' tail', CleanParts parts' ∧ tail' <:+ tail ∧ parts'.map (·.2) = parts.map (·.2) ∧
      (noisyFrames parts tail).drop k = noisyFrames parts' tail' := by
  match parts with
  | [] => exact ⟨[], tail.drop k, hp, List.drop_suffix _ _, rfl, by simp [noisyFrames]⟩
  | (noise, m) :: ps =>
    obtain ⟨⟨hnoise, hm⟩, hps⟩ := cleanParts_cons.1 hp
    have hle : k ≤ noise.length := by
      by_contra hlt
      refine hk ?_
      rw [noisyFrames_cons, List.take_append]
      refine List.mem_append_right _ ?_
      obtain ⟨j, hj⟩ := Nat.exists_eq_add_of_lt (Nat.not_le.1 hlt)
      rw [show k - noise.length = j + 1 by omega]
      exact List.mem_cons_self
    refine ⟨(noise.drop k, m) :: ps, tail, cleanParts_cons.2 ⟨⟨fun h => hnoise (List.mem_of_mem_drop h), hm⟩, hps⟩,
      List.suffix_rfl, rfl, ?_⟩
    rw [noisyFrames_cons, noisyFrames_cons, List.drop_append_of_le_length hle]

/-- The bytes not yet consumed are frames in noise, and with their messages the log will be `msgs`. -/
def AwaitsFrames (msgs : List MsgRecord) (diags : List DiagRecord) (tail : List Byte) (pending : List Byte)
    (msgLog : List MsgRecord) (diagLog : List DiagRecord) : Prop :=
  ∃ parts tail', CleanParts parts ∧ tail' <:+ tail ∧ pending = noisyFrames parts tail' ∧
    msgLog ++ recordsFrom (msgLog.length + diagLog.length) (parts.map (·.2)) = msgs ∧ diagLog = diags

/-- A decided candidate at the front of the stream is the first frame. -/
theorem noisyFrames_decided {parts : List (List Byte × Message)} {tail b rest : List Byte} {o : DecodeOutcome}
    (hp : CleanParts parts) (htail : Params.sync ∉ tail) (hpending : b ++ rest = noisyFrames parts tail)
    (h0 : b.head? = some Params.sync) (ho : o ≠ .incomplete) (hd : tryDecode b = .ok o) :
    ∃ m ps, parts = ([], m) :: ps ∧ o = .decoded m (7 + m.payload.length) := by
  have h0' : (noisyFrames parts tail).head? = some Params.sync := by
    rw [← hpending, List.head?_append, h0]
    rfl
  obtain ⟨m, ps, rfl⟩ := noisyFrames_head_sync hp htail h0'
  obtain ⟨⟨_, hm⟩, _⟩ := cleanParts_cons.1 hp
  have hall := tryDecode_append hd ho rest
  rw [hpending, tryDecode_noisyFrames hm] at hall
  exact ⟨m, ps, rfl, (Except.ok.inj hall).symm⟩

section Awaits

variable {msgs msgLog : List MsgRecord} {diags diagLog : List DiagRecord} {tail : List Byte}

/-- To discard noise from the front of the buffer keeps the frames that are awaited (R123, R125). -/
theorem awaitsFrames_drop {b rest : List Byte} (h : AwaitsFrames msgs diags tail (b ++ rest) msgLog diagLog) {k : Nat}
    (hk : k ≤ b.length) (hnoise : ∀ x ∈ b.take k, x ≠ Params.sync) :
    AwaitsFrames msgs diags tail (b.drop k ++ rest) msgLog diagLog := by
  obtain ⟨parts, tail', hp, hsuffix, hpending, hmsgs, hdiags⟩ := h
  have htake : Params.sync ∉ (noisyFrames parts tail').take k := by
    rw [← hpending, List.take_append_of_le_length hk]
    exact fun hmem => hnoise _ hmem rfl
  obtain ⟨parts', tail'', hp', hsuffix', hmap, hdrop⟩ := noisyFrames_drop hp htake
  refine ⟨parts', tail'', hp', hsuffix'.trans hsuffix, ?_, hmap ▸ hmsgs, hdiags⟩
  rw [← hdrop, ← hpending, List.drop_append_of_le_length hk]

variable (htail : Params.sync ∉ tail)
include htail

/-- A false sync cannot be: where a candidate begins, a frame begins; every other action consumes noise or nothing. -/
theorem awaitsFrames_action (rest : List Byte) (s t : State) (hq : s.ctrl ≠ .q) (hs : RxInv s)
    (hstep : drainStep s = .next t) (h : AwaitsFrames msgs diags tail (s.buf ++ rest) s.msgLog s.diagLog) :
    AwaitsFrames msgs diags tail (t.buf ++ rest) t.msgLog t.diagLog := by
  rcases drainStep_inv hq hstep with ⟨_, _, rfl⟩ | ⟨_, _, rfl⟩ | ⟨_, hf, rfl⟩ | ⟨_, _, rfl⟩ | ⟨k, _, hf, rfl⟩ |
    ⟨_, _, rfl⟩ | ⟨r, hc, hd, rfl⟩ | ⟨m, n, hc, hd, rfl⟩
  · exact h
  · exact h
  · have hnone : ∀ x ∈ s.buf.take s.buf.length, x ≠ Params.sync := by
      rw [List.take_length]
      exact firstSync_none hf
    simpa using awaitsFrames_drop h le_rfl hnone
  · exact h
  · obtain ⟨hk, _, hnoise⟩ := firstSync_some hf
    exact awaitsFrames_drop h hk.le hnoise
  · exact h
  · obtain ⟨parts, tail', hp, hsuffix, hpending, _, _⟩ := h
    obtain ⟨_, _, _, ho⟩ := noisyFrames_decided hp (fun hmem => htail (hsuffix.mem hmem)) hpending (hs.2 hc)
      DecodeOutcome.noConfusion hd
    cases ho
  · obtain ⟨parts, tail', hp, hsuffix, hpending, hmsgs, hdiags⟩ := h
    obtain ⟨_, ps, rfl, ho⟩ := noisyFrames_decided hp (fun hmem => htail (hsuffix.mem hmem)) hpending (hs.2 hc)
      DecodeOutcome.noConfusion hd
    cases ho
    obtain ⟨_, _, hle, _, _⟩ := tryDecode_decoded hd
    refine ⟨ps, tail', (cleanParts_cons.1 hp).2, hsuffix, ?_, ?_, hdiags⟩
    · have hdrop := congrArg (List.drop (7 + m.payload.length)) hpending
      rw [List.drop_append_of_le_length hle, noisyFrames_cons, List.nil_append,
        List.drop_left' (frameBytes_length _ _ _)] at hdrop
      exact hdrop
    · rw [List.map_cons, recordsFrom] at hmsgs
      simpa [State.nextPos, Nat.add_right_comm] using hmsgs

/-- At quiescence with nothing more to come, all messages are logged and the buffer is of the tail. -/
theorem awaitsFrames_quiescent {b : List Byte} (h : AwaitsFrames msgs diags tail b msgLog diagLog)
    (hb : Quiescent b) : b <:+ tail ∧ msgLog = msgs ∧ diagLog = diags := by
  obtain ⟨parts, tail', hp, hsuffix, rfl, hmsgs, hdiags⟩ := h
  match parts with
  | [] => exact ⟨hsuffix, by simpa [recordsFrom] using hmsgs, hdiags⟩
  | (noise, m) :: ps =>
    obtain ⟨⟨_, hm⟩, _⟩ := cleanParts_cons.1 hp
    have hlong : ¬ (noisyFrames ((noise, m) :: ps) tail').length < 7 := by
      simp [noisyFrames_cons]
      omega
    obtain ⟨h0, _⟩ := hb.resolve_left hlong
    obtain ⟨_, _, e⟩ := noisyFrames_head_sync hp (fun hmem => htail (hsuffix.mem hmem)) h0
    cases e
    have hwait := tryDecode_incomplete_iff.2 hb
    rw [tryDecode_noisyFrames hm] at hwait
    cases hwait

end Awaits

/-- Settles O43: the stream is frames in noise from the first FEED on, and at the end none is left. -/
theorem framesInNoiseAreAllEmitted : Obligations.FramesInNoiseAreAllEmitted := by
  unfold Obligations.FramesInNoiseAreAllEmitted
  intro parts tail cs s hq hb hcs hp htail hstream
  have hstart : AwaitsFrames (s.msgLog ++ recordsFrom s.nextPos (parts.map (·.2))) s.diagLog tail
      (s.buf ++ cs.flatten) s.msgLog s.diagLog :=
    ⟨parts, tail, hp, List.suffix_rfl, by rw [hb, hstream]; rfl, rfl, rfl⟩
  obtain ⟨t, ht, htq, htb, hend, _, _⟩ := 
    feedAll_pending (awaitsFrames_action htail) hcs (rxInv_of_empty hq hb) hq hstart
  obtain ⟨_, hmsgs, hdiags⟩ := awaitsFrames_quiescent htail hend htb
  exact ⟨t, ht, htq, hdiags, hmsgs⟩

/-! The reception of a frame (log entry 8). -/

/-- A reception is a run of one-byte FEEDs. -/
theorem receiveBytes_eq_feedAll (bytes : List Byte) (s : State) :
    receiveBytes bytes s = feedAll (bytes.map fun b => [b]) s := by
  induction bytes generalizing s with
  | nil => rfl
  | cons b bs ih =>
    simp only [receiveBytes, List.map_cons, feedAll]
    have e : exec (.feed [b]) s = execFeed [b] s := rfl
    rw [e]
    cases execFeed [b] s with
    | next t => exact ih t
    | fault f => rfl
    | refused r => rfl

theorem singletons_admitted (bytes : List Byte) : ∀ c ∈ bytes.map fun b => [b], c.length ≤ Config.chunkMax := by
  intro c hc
  obtain ⟨b, _, rfl⟩ := List.mem_map.1 hc
  exact one_le_chunkMax

theorem flatten_singletons (bytes : List Byte) : (bytes.map fun b => [b]).flatten = bytes := by
  rw [← List.flatMap_def, List.flatMap_singleton']

theorem state_eq {s t : State} (hbuf : s.buf = t.buf) (hctrl : s.ctrl = t.ctrl) (hmsg : s.msgLog = t.msgLog)
    (hdiag : s.diagLog = t.diagLog) (hres : s.results = t.results) (hscript : s.script = t.script) : s = t := by
  cases s
  cases t
  simp_all

/-- Settles O45: one frame, no noise and no tail; a payload that no frame has is refused before any byte. -/
theorem frameReceptionEmitsItsMessage : Obligations.FrameReceptionEmitsItsMessage := by
  unfold Obligations.FrameReceptionEmitsItsMessage
  intro t q p s
  refine ⟨fun hp => if_pos hp, fun hp hq hb => ?_⟩
  have hexec : exec (.frame t q p) s = feedAll ((frameBytes t q p).map fun b => [b]) s :=
    (if_neg (Nat.not_lt.2 hp)).trans (receiveBytes_eq_feedAll _ _)
  have hstart : AwaitsFrames (s.msgLog ++ [{ pos := s.nextPos, msg := { type := t, seq := q, payload := p } }])
      s.diagLog [] (s.buf ++ ((frameBytes t q p).map fun b => [b]).flatten) s.msgLog s.diagLog := by
    rw [hb, flatten_singletons]
    exact ⟨[([], { type := t, seq := q, payload := p })], [],
      cleanParts_cons.2 ⟨⟨List.not_mem_nil, hp⟩, List.forall_mem_nil _⟩, List.suffix_rfl, by simp [noisyFrames], rfl,
      rfl⟩
  obtain ⟨u, hu, huq, hub, hend, hres, hscript⟩ := feedAll_pending (awaitsFrames_action List.not_mem_nil)
    (singletons_admitted _) (rxInv_of_empty hq hb) hq hstart
  obtain ⟨hbuf, hmsgs, hdiags⟩ := awaitsFrames_quiescent List.not_mem_nil hend hub
  rw [hexec, hu]
  refine congrArg _ (state_eq ?_ (huq.trans hq.symm) hmsgs hdiags ?_ hscript)
  · rw [List.suffix_nil.1 hbuf, hb]
  · rw [hres, List.length_map, frameBytes_length]

/-! False-sync recovery (R140). -/

/-- Before its CRC is checked, the rejected candidate is all there in front of the frame; after that the frame comes
after noise, and one diagnostic is logged. -/
def AwaitsRecovery (candidate : List Byte) (m : Message) (msgs : List MsgRecord) (diags : List DiagRecord)
    (pending : List Byte) (msgLog : List MsgRecord) (diagLog : List DiagRecord) : Prop :=
  (pending = Params.sync :: (candidate ++ frameBytes m.type m.seq m.payload) ∧ msgLog = msgs ∧ diagLog = diags) ∨
    AwaitsFrames (msgs ++ [{ pos := msgs.length + diags.length + 1, msg := m }])
      (diags ++ [{ pos := msgs.length + diags.length, reason := .frameInvalidBadCrc }]) [] pending msgLog diagLog

section Recovery

variable {candidate : List Byte} {m : Message} (hm : m.payload.length ≤ 65535)
  (hbad : tryDecode (Params.sync :: candidate) = .ok (.invalid .badCrc)) (hclean : Params.sync ∉ candidate)
include hbad

/-- R111: the candidate is rejected whatever follows it. -/
theorem tryDecode_rejected (x : List Byte) :
    tryDecode (Params.sync :: (candidate ++ x)) = .ok (.invalid .badCrc) :=
  tryDecode_append hbad DecodeOutcome.noConfusion x

/-- At quiescence with nothing more to come, the candidate is rejected and the frame received. -/
theorem awaitsRecovery_quiescent {msgs : List MsgRecord} {diags : List DiagRecord} {b : List Byte}
    {msgLog : List MsgRecord} {diagLog : List DiagRecord} (h : AwaitsRecovery candidate m msgs diags b msgLog diagLog)
    (hb : Quiescent b) :
    b = [] ∧ msgLog = msgs ++ [{ pos := msgs.length + diags.length + 1, msg := m }] ∧
      diagLog = diags ++ [{ pos := msgs.length + diags.length, reason := .frameInvalidBadCrc }] := by
  rcases h with ⟨rfl, _, _⟩ | h
  · have hwait := tryDecode_incomplete_iff.2 hb
    rw [tryDecode_rejected hbad] at hwait
    cases hwait
  · obtain ⟨hbuf, hmsgs, hdiags⟩ := awaitsFrames_quiescent List.not_mem_nil h hb
    exact ⟨List.suffix_nil.1 hbuf, hmsgs, hdiags⟩

include hm hclean

/-- Nothing but the rejection of the candidate takes its sync byte away (R127). -/
theorem awaitsRecovery_action {msgs : List MsgRecord} {diags : List DiagRecord} (rest : List Byte) (s t : State)
    (hq : s.ctrl ≠ .q) (hs : RxInv s) (hstep : drainStep s = .next t)
    (h : AwaitsRecovery candidate m msgs diags (s.buf ++ rest) s.msgLog s.diagLog) :
    AwaitsRecovery candidate m msgs diags (t.buf ++ rest) t.msgLog t.diagLog := by
  rcases h with ⟨hpending, hmsgs, hdiags⟩ | h
  case inr => exact .inr (awaitsFrames_action List.not_mem_nil rest s t hq hs hstep h)
  have waiting : AwaitsRecovery candidate m msgs diags (s.buf ++ rest) s.msgLog s.diagLog :=
    .inl ⟨hpending, hmsgs, hdiags⟩
  have hfirst : firstSync (s.buf ++ rest) = some 0 := by
    rw [hpending]
    exact firstSync_zero.2 rfl
  have decided {o : DecodeOutcome} (ho : o ≠ .incomplete) (hd : tryDecode s.buf = .ok o) : o = .invalid .badCrc := by
    have hall := tryDecode_append hd ho rest
    rw [hpending, tryDecode_rejected hbad] at hall
    exact (Except.ok.inj hall).symm
  rcases drainStep_inv hq hstep with ⟨_, _, rfl⟩ | ⟨_, _, rfl⟩ | ⟨_, hf, rfl⟩ | ⟨_, _, rfl⟩ | ⟨k, _, hf, rfl⟩ |
    ⟨_, _, rfl⟩ | ⟨r, _, hd, rfl⟩ | ⟨m', n, _, hd, rfl⟩
  · exact waiting
  · exact waiting
  · have hempty : s.buf = [] := by
      rcases hbuf : s.buf with _ | ⟨x, xs⟩
      · rfl
      · rw [hbuf] at hpending hf
        obtain rfl : x = Params.sync := (List.cons.inj hpending).1
        exact absurd rfl (firstSync_none hf _ List.mem_cons_self)
    rw [hempty] at waiting
    exact waiting
  · exact waiting
  · rw [firstSync_append hf rest] at hfirst
    cases hfirst
  · exact waiting
  · have hdrop : s.buf.drop 1 ++ rest = candidate ++ frameBytes m.type m.seq m.payload := by
      rw [← List.drop_append_of_le_length (one_le_length_of_invalid hd), hpending]
      rfl
    refine .inr ⟨[(candidate, m)], [], cleanParts_cons.2 ⟨⟨hclean, hm⟩, List.forall_mem_nil _⟩, List.suffix_rfl,
      ?_, ?_, ?_⟩
    · simpa [noisyFrames] using hdrop
    · simp [recordsFrom, hmsgs, hdiags, Nat.add_assoc]
    · simp [State.nextPos, hmsgs, hdiags]
  · cases decided DecodeOutcome.noConfusion hd

end Recovery

/-- Settles O44: the stream is the candidate and the frame from the first FEED on; at the end neither is left. -/
theorem falseSyncIsRecovered : Obligations.FalseSyncIsRecovered := by
  unfold Obligations.FalseSyncIsRecovered
  intro c m cs s hq hb hm hbad hclean hcs hstream
  have hstart : AwaitsRecovery c m s.msgLog s.diagLog (s.buf ++ cs.flatten) s.msgLog s.diagLog :=
    .inl ⟨by rw [hb, hstream]; rfl, rfl, rfl⟩
  obtain ⟨t, ht, htq, htb, hend, hres, hscript⟩ :=
    feedAll_pending (awaitsRecovery_action hm hbad hclean) hcs (rxInv_of_empty hq hb) hq hstart
  obtain ⟨hbuf, hmsgs, hdiags⟩ := awaitsRecovery_quiescent hbad hend htb
  rw [ht]
  exact congrArg _ (state_eq (hbuf.trans hb.symm) (htq.trans hq.symm) hmsgs hdiags hres hscript)

end Sys2Proof.Machine
end
